-- ==== Sys2Proof/Word.lean ====
section
/-! DEFINITION. The word types of the Vachrin 2640: bytes, line data, tags, epochs, time stamps. -/

namespace Sys2Proof

/-- One byte of a register, a header or a readout. -/
abbrev Byte := BitVec 8

/-- The 64 data bytes of a line; byte i is bits 8i+7..8i (R181: byte 0 first). -/
abbrev LineData := BitVec 512

/-- The 8 check bytes of a stored line (R74). -/
abbrev CheckBytes := BitVec 64

/-- The byte mask of a LINE_MERGE: bit i stands for data byte i (05, section 5.6). -/
abbrev ByteMask := BitVec 64

/-- A request tag, 0 to 63 (R142). -/
abbrev Tag := BitVec 6

/-- The epoch of a media slot, 0 to 15 (R128). -/
abbrev Epoch := BitVec 4

/-- The number of a media slot, 0 to 15 (R128). -/
abbrev SlotNo := BitVec 4

/-- The millisecond count of the time base: 32 bits, wraps (00, "Time"). -/
abbrev Millis := BitVec 32

/-- The line address field of a request, 0 to 4,294,967,295 (R142). -/
abbrev LineAddr := BitVec 32

/-- The 12 parameter bytes PARAM[0..11] (R173). -/
abbrev Params := Vector Byte 12

/-- A stored line: 72 bytes, the data and its check bytes (R1). -/
structure StoredLine where
  data : LineData
  check : CheckBytes
  deriving DecidableEq, Repr

end Sys2Proof
end

