-- ==== Sys2Proof/Config.lean ====
section
/-! DEFINITION. What is fixed for the part: sizes, codes, periods; and the free value of the patrol's count. The
check code and the poison constant stand in Machine/CheckCode.lean. -/

namespace Sys2Proof.Config

/-- Banks of the stack (R1). -/
def banks : Nat := 16
/-- Physical rows of a bank (R1). -/
def rowsPerBank : Nat := 32768
/-- Stored lines of a row (R1). -/
def linesPerRow : Nat := 128
/-- Lines of a stripe: one logical row across the banks (R3). -/
def linesPerStripe : Nat := 2048
/-- Slots of the Remap Table (R26). -/
def tableSlots : Nat := 256
/-- Places of the Sparing Request Queue (R46). -/
def sparingPlaces : Nat := 8
/-- Places of the Watch List (R89). -/
def watchPlaces : Nat := 64
/-- Places of the fault log (R162). -/
def logPlaces : Nat := 32
/-- The largest value of a counter (R166). -/
def counterMax : Nat := 65535
/-- Credits of the link, which IRQ occupancy, G and P share (R143). -/
def credits : Nat := 32
/-- Restarts a migration may make (R63). -/
def maxRestarts : Nat := 3
/-- Consecutive timeouts that fail the media port (R138). -/
def timeoutsToFail : Nat := 4
/-- The bound of one media phase, and of the warm-reset drain, in µs (R135, R140). -/
def mediaTimeoutUs : Nat := 50

/-- VENDOR register (R173). -/
def vendor : Byte := 0xA7
/-- PART register (R173). -/
def part : Byte := 0x40
/-- REVISION register (R173). -/
def revision : Byte := 0x10
/-- The I2C address with both MA straps low (R172). -/
def i2cBase : BitVec 7 := 0x38

/-- The largest value of the patrol's sweep reads (R105). -/
def maxSweepReads : Nat := 67108864

/-- FREE VALUE (LOG 11): what sweep reads holds after a read issued with the count at the top of its range, which the manual does not
say (R105, R110); the argument counts the draws. -/
opaque sweepReadsBeyond : Nat → Fin (maxSweepReads + 1)

end Sys2Proof.Config
end

