-- ==== Sys2Proof/Syntax.lean ====
section
/-! DEFINITION. The commands of the part: one constructor per row of spec/opcode_table.json, with the row's operands.
The parameters of a management command stand in the PARAM registers (R175), so its row carries none. -/

namespace Sys2Proof

/-- The two event flag bytes of the register window (R174). -/
inductive FlagByte where
  | flags0
  | flags1
  deriving DecidableEq, Repr

/-- The steps of the part. -/
inductive Instr where
  /-- COLD_RESET: RESET_N low or power-up; the strap codes it samples (R35, R172). -/
  | coldReset (spr : BitVec 3) (ma : BitVec 2)
  /-- LINK_RESET, signalled by the link's lower layers (R158). -/
  | linkReset
  /-- LINE_READ: tag byte and line address of the header (R142, R181). -/
  | lineRead (tagByte : Byte) (line : LineAddr)
  /-- LINE_WRITE: header and 64 data bytes. -/
  | lineWrite (tagByte : Byte) (line : LineAddr) (data : LineData)
  /-- LINE_MERGE: header, 64 data bytes and the byte mask. -/
  | lineMerge (tagByte : Byte) (line : LineAddr) (data : LineData) (mask : ByteMask)
  /-- UNKNOWN_MESSAGE_TYPE: an inbound message of a type that names no request (R181). -/
  | unknownMessageType (type : Byte)
  /-- CREDIT: the part sends a CREDIT message (R143). -/
  | credit
  /-- READ_COMPLETION: slot, epoch, leg and stored line as the base die returns them (R127, R130). -/
  | readCompletion (slot : SlotNo) (epoch : Epoch) (leg : Bool) (line : StoredLine)
  /-- WRITE_COMPLETION: slot, epoch and leg (R127, R130). -/
  | writeCompletion (slot : SlotNo) (epoch : Epoch) (leg : Bool)
  /-- MEDIA_TIMEOUT: the 50 µs timer of a slot's phase expires (R135). -/
  | mediaTimeout (slot : SlotNo)
  /-- DRAIN_EXPIRY: the 50 µs bound of a warm reset's drain expires (R140). -/
  | drainExpiry
  /-- DECAY_EXPIRY: the decay timer expires (R97). -/
  | decayExpiry
  /-- INTERVAL_EXPIRY: the patrol's interval timer expires (R109). -/
  | intervalExpiry
  /-- SLOT_GRANT: a grant attempt of the Media Operation Table (R132). -/
  | slotGrant
  /-- COPY_READ_ISSUE: the copy of the cursor line is issued (R54). -/
  | copyReadIssue
  /-- PATROL_READ_ISSUE: an attempt of the due patrol (R110). -/
  | patrolReadIssue
  | getStatus
  | openGate
  | closeGate
  | warmReset
  | setReservation
  | readRemap
  | findRemap
  | installEntry
  | dropEntry
  | readPool
  | markSpareDead
  | setLowWater
  | spareRow
  | abortMigration
  | readWatch
  | clearWatch
  | setThresholds
  | setRegion
  | readRegion
  /-- START of PATROL_CONTROL (R116). -/
  | start
  /-- STOP of PATROL_CONTROL (R116). -/
  | stop
  /-- SET_INTERVAL of PATROL_CONTROL (R117). -/
  | setInterval
  /-- SET_CURSOR of PATROL_CONTROL (R117). -/
  | setCursor
  | setInject
  | clearInject
  | readFault
  | popFault
  | readCounters
  | clearCounters
  | setAlertMask
  /-- UNKNOWN_COMMAND: a code that names no command is written to COMMAND (R175). -/
  | unknownCommand (code : Byte)
  /-- COMMAND_OVERRUN: a byte is written to COMMAND while RESULT is BUSY (R176). -/
  | commandOverrun (code : Byte)
  /-- EVENT_FLAG_WRITE: a byte is written to FLAGS0 or FLAGS1 (R168). -/
  | eventFlagWrite (which : FlagByte) (value : Byte)
  /-- POINTER_WRITE: the first data byte of an I2C write transaction (R172). -/
  | pointerWrite (value : Byte)
  /-- REGISTER_WRITE: a later data byte of an I2C write transaction (R172, R173). -/
  | registerWrite (value : Byte)
  /-- LINK_UP: the link comes up (R158). -/
  | linkUp
  /-- REGISTER_READ: a data byte of an I2C read transaction (R172). -/
  | registerRead
  /-- ADDRESS_BYTE: a start or repeated start and the address byte with its read or write bit (R172). -/
  | addressByte (address : BitVec 7) (read : Bool)
  deriving DecidableEq, Repr

end Sys2Proof
end

