-- ==== Sys2Proof/Decode.lean ====
section
/-! DEFINITION. Reading commands from outside: no row of the table gives bits, so no word spells a command; the codes of
COMMAND (R178); and the inbound messages of the controller link read from their bytes (R181). -/

namespace Sys2Proof

/-- The command that a word spells by the table's bits: no row of spec/opcode_table.json gives any. -/
def decodeTableWord (_nbits _w : Nat) : Option Instr := none

/-! ### Codes of the COMMAND register (R178) -/

def codeGetStatus : Byte := 0x01
def codeOpenGate : Byte := 0x02
def codeCloseGate : Byte := 0x03
def codeWarmReset : Byte := 0x04
def codeSetReservation : Byte := 0x05
def codeReadRemap : Byte := 0x06
def codeFindRemap : Byte := 0x07
def codeInstallEntry : Byte := 0x08
def codeDropEntry : Byte := 0x09
def codeReadPool : Byte := 0x0A
def codeMarkSpareDead : Byte := 0x0B
def codeSetLowWater : Byte := 0x0C
def codeSpareRow : Byte := 0x0D
def codeAbortMigration : Byte := 0x0E
def codeReadWatch : Byte := 0x0F
def codeClearWatch : Byte := 0x10
def codeSetThresholds : Byte := 0x11
def codeSetRegion : Byte := 0x12
def codeReadRegion : Byte := 0x13
def codePatrolControl : Byte := 0x14
def codeSetInject : Byte := 0x15
def codeClearInject : Byte := 0x16
def codeReadFault : Byte := 0x17
def codePopFault : Byte := 0x18
def codeReadCounters : Byte := 0x19
def codeClearCounters : Byte := 0x1A
def codeSetAlertMask : Byte := 0x1B

/-- The codes that name a command are 0x01 to 0x1B (R178); 0x00 names none (R175). -/
def namesCommand (code : Byte) : Bool := 1 ≤ code.toNat && code.toNat ≤ 0x1B

/-- The operations of PATROL_CONTROL, PARAM[0] (R178). -/
def opStart : Byte := 1
def opStop : Byte := 2
def opSetInterval : Byte := 3
def opSetCursor : Byte := 4

/-- The operations that PATROL_CONTROL knows (R116). -/
def namesPatrolOperation (op : Byte) : Bool := 1 ≤ op.toNat && op.toNat ≤ 4

/-! ### Inbound messages (R181) -/

/-- The types of an inbound request. -/
def namesRequest (type : Byte) : Bool := 1 ≤ type.toNat && type.toNat ≤ 3

/-- The number that little-endian bytes hold (R178, R181). -/
def leNat : List Byte → Nat
  | [] => 0
  | b :: bs => b.toNat + 256 * leNat bs

/-- The low `n` bytes of a number, little-endian. -/
def leBytes : Nat → Nat → List Byte
  | 0, _ => []
  | n + 1, v => BitVec.ofNat 8 v :: leBytes n (v / 256)

/-- The step that an inbound message is, from its bytes (R181): type, tag, line address, data, mask. A message that is
not whole for its type is none: the link delivers messages whole (R142). -/
def readMessage : List Byte → Option Instr
  | [] => none
  | type :: rest =>
    if namesRequest type then
      match rest with
      | tag :: body =>
        let line : LineAddr := BitVec.ofNat 32 (leNat (body.take 4))
        let data : LineData := BitVec.ofNat 512 (leNat ((body.drop 4).take 64))
        let mask : ByteMask := BitVec.ofNat 64 (leNat (body.drop 68))
        if type = 1 ∧ body.length = 4 then some (.lineRead tag line)
        else if type = 2 ∧ body.length = 68 then some (.lineWrite tag line data)
        else if type = 3 ∧ body.length = 76 then some (.lineMerge tag line data mask)
        else none
      | [] => none
    else some (.unknownMessageType type)

end Sys2Proof
end

