-- ==== Sys2Proof/Machine/Operands.lean ====
section
/-! DEFINITION. The operand forms: the geometry of a line address (R1 to R4), the fields of the PARAM bytes (R178),
and the address tests that commands share (R7). -/

namespace Sys2Proof.Machine

/-! ### Geometry -/

/-- column = L mod 128 (R3). -/
def columnOf (line : Nat) : Nat := line % 128
/-- bank = (L div 128) mod 16 (R3). -/
def bankOf (line : Nat) : Nat := line / 128 % 16
/-- logical row (stripe) = L div 2048 (R3). -/
def rowOf (line : Nat) : Nat := line / 2048
/-- L = row × 2048 + bank × 128 + column (R3). -/
def lineOf (row bank column : Nat) : Nat := row * 2048 + bank * 128 + column

/-- Visible stripes, 32,768 − S (R4). -/
def visibleRows (s : Nat) : Nat := 32768 - s
/-- Visible capacity, 2,048 × (32,768 − S) lines (R4). -/
def visibleCapacity (s : Nat) : Nat := 2048 * visibleRows s
/-- Spare index k is physical row 32,768 − S + k (R2). -/
def spareRowOf (s k : Nat) : Nat := 32768 - s + k

/-- S from the strap code SPR[2:0] (R35). -/
def reservationOfStrap (code : BitVec 3) : Nat :=
  match code.toNat with
  | 0 => 0
  | 1 => 8
  | 2 => 16
  | 3 => 32
  | _ => 64

/-- The values S may take (R2, R36). -/
def isReservation (s : Nat) : Bool := s == 0 || s == 8 || s == 16 || s == 32 || s == 64

/-! ### Fields of the PARAM bytes (R178) -/

/-- PARAM[i] as a number. -/
def paramByte (p : Params) (i : Nat) : Nat := (p.toList.getD i 0).toNat
/-- PARAM[i..i+1], little-endian. -/
def paramHalf (p : Params) (i : Nat) : Nat := paramByte p i + 256 * paramByte p (i + 1)
/-- PARAM[i..i+3], little-endian. -/
def paramWord (p : Params) (i : Nat) : Nat := paramHalf p i + 65536 * paramHalf p (i + 2)

/-- An on/off, yes/no parameter: 0 or 1, anything else is refused (R178). -/
def onOff : Nat → Option Bool
  | 0 => some false
  | 1 => some true
  | _ => none

/-! ### Address tests (R7) -/

/-- bank: 0 to 15. -/
def bankOk (bank : Nat) : Bool := bank < 16
/-- logical row: 0 to 32,767 − S. -/
def rowOk (s row : Nat) : Bool := row < visibleRows s
/-- spare index: 0 to S − 1. -/
def spareOk (s spare : Nat) : Bool := spare < s
/-- logical line: 0 to visible capacity − 1. -/
def lineOk (s line : Nat) : Bool := line < visibleCapacity s

end Sys2Proof.Machine
end

