-- ==== Sys2Proof/Machine/State.lean ====
section
/-! DEFINITION. The state of the part, block by block, as plain data; the reasons a step can stop; the state after cold reset. -/

namespace Sys2Proof.Machine

/-! ### Names shared by several blocks -/

/-- The classification of a media read (R76). -/
inductive ReadOutcome where
  | clean
  | corrected
  | uncorrectable
  | poison
  deriving DecidableEq, Repr

/-- The origin of a read or of a fault record (R160). -/
inductive Origin where
  | upstream
  | patrol
  | copy
  | fallback
  | command
  | engine
  | link
  deriving DecidableEq, Repr

/-- The cause of a sparing request (R46). -/
inductive SpareCause where
  | budget
  | ue
  | command
  deriving DecidableEq, Repr

/-- Why a sparing request is refused at validation (R51). -/
inductive RefusalReason where
  | policy
  | tableFull
  | poolEmpty
  deriving DecidableEq, Repr

/-- Why a migration aborts (R67). -/
inductive AbortReason where
  | command
  | warmReset
  | mediaFailed
  | mediaTimeout
  | restartLimit
  | poolEmpty
  deriving DecidableEq, Repr

/-- A physical address on the media port: bank, physical row, column (R1). -/
structure PhysAddr where
  bank : Nat
  row : Nat
  column : Nat
  deriving DecidableEq, Repr

/-! ### Remap block (R26, R30, R33, R35) -/

/-- The physical row a migration copies from (R26, R52). -/
inductive Source where
  | original
  | spare (index : Nat)
  deriving DecidableEq, Repr

/-- The state of a Remap Table entry; a slot that is FREE is not listed. The source is present in MIGRATING alone (R26). -/
inductive EntryState where
  | active
  | migrating (source : Source)
  deriving DecidableEq, Repr

/-- How an entry's present mapping was made (R26). -/
inductive EntryOrigin where
  | migrated
  | installed
  deriving DecidableEq, Repr

/-- A Remap Table entry (R26). -/
structure RemapEntry where
  bank : Nat
  row : Nat
  dest : Nat
  state : EntryState
  origin : EntryOrigin
  generation : Nat
  time : Millis
  deriving DecidableEq, Repr

/-- The state of a spare index (R30). -/
inductive SpareState where
  | free
  | assigned
  | dead
  deriving DecidableEq, Repr

/-- A spare that is not FREE: the spare index of a bank, and whether it is DEAD (else ASSIGNED). -/
structure SpareMark where
  bank : Nat
  index : Nat
  dead : Bool
  deriving DecidableEq, Repr

/-- The remap block: S, the slots that are not FREE in rising slot order, the spares that are not FREE in rising
(bank, index) order, and the low-water mark. -/
structure Remap where
  s : Nat
  table : List (Nat × RemapEntry)
  spares : List SpareMark
  lowWater : Nat
  deriving DecidableEq, Repr

/-! ### Region table (R15, R17) -/

/-- How a LINE_READ that is UNCORRECTABLE or POISON is answered (R17). -/
inductive UeResponse where
  | poison
  | fail
  deriving DecidableEq, Repr

/-- The six attributes of a region (R17). -/
structure Policy where
  scrub : Bool
  autospare : Bool
  ueSpare : Bool
  ueResponse : UeResponse
  ceLog : Bool
  cls : Fin 4
  deriving DecidableEq, Repr

/-- A region: its limit and its attributes (R15). -/
structure Region where
  limit : Nat
  policy : Policy
  deriving DecidableEq, Repr

/-! ### Sparing requests and the Migration Engine (R46, R52) -/

/-- A sparing request (R46). -/
structure SpareRequest where
  bank : Nat
  row : Nat
  cause : SpareCause
  deriving DecidableEq, Repr

/-- The states of the Migration Engine outside IDLE (R52). -/
inductive CopyState where
  | waitSlot
  | reading
  | writing
  deriving DecidableEq, Repr

/-- The context of the Migration Engine outside IDLE (R52). -/
structure EngineCtx where
  state : CopyState
  entrySlot : Nat
  source : Source
  dest : Nat
  cursor : Nat
  restarts : Nat
  cause : SpareCause
  startTime : Millis
  poisoned : Nat
  deriving DecidableEq, Repr

/-! ### Watch block (R89 to R91) -/

/-- A Watch List entry (R89). -/
structure WatchEntry where
  bank : Nat
  row : Nat
  logical : Nat
  threshold : Nat
  budget : Nat
  errors : Nat
  time : Millis
  deriving DecidableEq, Repr

/-- The watch block: the list, oldest first; the threshold classes; the decay period in ms; and the time-base microsecond
at which the decay timer next expires (none: it has no expiries, R91). -/
structure Watch where
  entries : List WatchEntry
  thresholds : Vector Nat 4
  period : Nat
  nextExpiry : Option Nat
  deriving DecidableEq, Repr

/-! ### Patrol (R105) -/

/-- Which operation of a patrol step is in flight (R105). -/
inductive StepPhase where
  | read
  | writeBack
  deriving DecidableEq, Repr

/-- The states of the patrol; STOPPING holds its step phase (R105). -/
inductive PatrolState where
  | stopped
  | waiting
  | reading
  | writingBack
  | stopping (phase : StepPhase)
  deriving DecidableEq, Repr

/-- The patrol (R105). `timer` is the time-base microsecond at which the interval timer expires; none: it does not run (R109). -/
structure Patrol where
  state : PatrolState
  cursor : Nat
  interval : Nat
  due : Bool
  sweepReads : Nat
  cancel : Bool
  timer : Option Nat
  deriving DecidableEq, Repr

/-! ### Injection unit (R119) -/

/-- The column of an injection slot: one line, or ANY (R119). -/
inductive InjectColumn where
  | any
  | column (c : Nat)
  deriving DecidableEq, Repr

/-- The outcome an injection slot reports (R119). -/
inductive InjectOutcome where
  | corrected
  | uncorrectable
  deriving DecidableEq, Repr

/-- The firing pattern of an injection slot (R119, R121). -/
inductive InjectMode where
  | oneShot
  | periodic
  | continuous
  deriving DecidableEq, Repr

/-- An injection slot (R119); the origin mask is its three bits. -/
structure InjectSlot where
  armed : Bool
  bank : Nat
  row : Nat
  column : InjectColumn
  outcome : InjectOutcome
  onUpstream : Bool
  onPatrol : Bool
  onCopy : Bool
  mode : InjectMode
  n : Nat
  count : Nat
  deriving DecidableEq, Repr

/-! ### Media Operation Table (R127, R128, R138, R140) -/

/-- The block that a slot's work belongs to (R128). The owner reference of an upstream slot is the IRQ entry with its tag while
`attached`, and none once a link reset has detached the slot (R141); the tag of the request stays a fact of its reads (R79; LOG 25). -/
inductive Owner where
  | upstream (tag : Tag) (attached : Bool)
  | copy
  | patrol
  deriving DecidableEq, Repr

/-- The states of a slot that is not FREE (R128). -/
inductive SlotStage where
  | issued
  | issuedSecond
  | orphan
  deriving DecidableEq, Repr

/-- What the phase in flight is (R129). -/
inductive Phase where
  | read
  | fallbackRead
  | write
  deriving DecidableEq, Repr

/-- The work of a slot that is not FREE (R128). `target2` is the second target of a dual write; `leg0` and `leg1` say
which legs await completion; `start` is the time-base microsecond of the phase's issue. -/
structure Work where
  stage : SlotStage
  owner : Owner
  line : Nat
  phase : Phase
  target : PhysAddr
  target2 : Option PhysAddr
  leg0 : Bool
  leg1 : Bool
  fallback : Option PhysAddr
  start : Nat
  deriving DecidableEq, Repr

/-- A slot of the Media Operation Table: FREE when it holds no work; the epoch is kept (R128). -/
structure MediaSlot where
  epoch : Epoch
  work : Option Work
  deriving DecidableEq, Repr

/-- A media operation as sent on the media port (R127). -/
inductive MediaOp where
  | read (slot : SlotNo) (epoch : Epoch) (addr : PhysAddr)
  | write (slot : SlotNo) (epoch : Epoch) (leg : Bool) (addr : PhysAddr) (line : StoredLine)
  deriving DecidableEq, Repr

/-- A leg in the drain record of a warm reset (R140). -/
structure DrainLeg where
  slot : SlotNo
  epoch : Epoch
  leg : Bool
  deriving DecidableEq, Repr

/-- The drain of a warm reset: the legs not yet answered, and the time-base microsecond of the reset (R140). -/
structure Drain where
  legs : List DrainLeg
  start : Nat
  deriving DecidableEq, Repr

/-- The Media Operation Table and the media port. `out` lists the operations placed on the port since cold reset, oldest first. -/
structure Media where
  slots : Vector MediaSlot 16
  failed : Bool
  timeouts : Nat
  drain : Option Drain
  out : List MediaOp
  deriving DecidableEq, Repr

/-! ### Controller port (R142, R143, R148, R155) -/

/-- The cause of a READ_FAIL or a WRITE_RESPONSE FAIL (R142). -/
inductive FailCause where
  | notOpen
  | range
  | uncorrectable
  | mediaTimeout
  | mediaFailed
  | reset
  | mergePoison
  deriving DecidableEq, Repr

/-- The status of a READ_RESPONSE (R142). -/
inductive ReadStatus where
  | clean
  | corrected
  | poison
  deriving DecidableEq, Repr

/-- The messages the part sends to the controller (R142). A WRITE_RESPONSE without a cause is OK, with one FAIL. -/
inductive CtlMsg where
  | readResponse (tag : Tag) (status : ReadStatus) (data : LineData)
  | readFail (tag : Tag) (cause : FailCause)
  | writeResponse (tag : Tag) (fail : Option FailCause)
  | credit (count : Nat)
  deriving DecidableEq, Repr

/-- The kind of a request, with its data and mask (R148). -/
inductive RequestKind where
  | read
  | write (data : LineData)
  | merge (data : LineData) (mask : ByteMask)
  deriving DecidableEq, Repr

/-- The state of an IRQ entry; ISSUED names its upstream slot (R148). -/
inductive IrqState where
  | waiting
  | issued (slot : SlotNo)
  | held
  deriving DecidableEq, Repr

/-- An entry of the Inbound Request Queue (R148). -/
structure IrqEntry where
  tag : Tag
  kind : RequestKind
  line : Nat
  state : IrqState
  deriving DecidableEq, Repr

/-- The gate (R155). -/
inductive Gate where
  | closed
  | opened
  | quiescing
  deriving DecidableEq, Repr

/-- The controller port: the link, the gate, G and P, the Inbound Request Queue in arrival order, and `out`, the messages
placed on the link, oldest first. -/
structure Ctl where
  linkUp : Bool
  gate : Gate
  g : Nat
  p : Nat
  irq : List IrqEntry
  out : List CtlMsg
  deriving DecidableEq, Repr

/-! ### Fault log (R160 to R162) -/

/-- The seventeen kinds of fault record (R161). -/
inductive FaultKind where
  | ceUpstream
  | cePatrol
  | ceCopy
  | ueUpstream
  | uePatrol
  | ueCopy
  | budgetExhausted
  | spareStarted
  | spareDone
  | spareAborted
  | spareRefused
  | spareRequestLost
  | migrationRestart
  | mediaTimeout
  | mediaFailed
  | protocol
  | range
  deriving DecidableEq, Repr

/-- The physical address of a record: the column may be absent on its own (R160). -/
structure RecordAddr where
  bank : Nat
  row : Nat
  column : Option Nat
  deriving DecidableEq, Repr

/-- What a block offers to the log: a record without its sequence number (R160, R162). -/
structure Offer where
  kind : FaultKind
  time : Millis
  origin : Origin
  injected : Bool
  line : Option Nat
  phys : Option RecordAddr
  slot : Option Nat
  detail : Byte
  deriving DecidableEq, Repr

/-- A stored fault record (R160). -/
structure FaultRecord where
  seq : BitVec 16
  body : Offer
  deriving DecidableEq, Repr

/-- The fault log: the records, oldest first, and the next sequence number (R162). -/
structure Log where
  records : List FaultRecord
  nextSeq : BitVec 16
  deriving DecidableEq, Repr

/-! ### Management port (R172 to R177) -/

/-- Where the I2C transaction stands (R172). -/
inductive BusState where
  /-- No transaction is addressed to the port. -/
  | idle
  /-- A write transaction whose first data byte is still to come. -/
  | pointerNext
  /-- A write transaction whose pointer is set. -/
  | writing
  /-- A read transaction. -/
  | reading
  deriving DecidableEq, Repr

/-- The results of a command (R175); BUSY is shown while a command is in progress. -/
inductive ResultCode where
  | ok
  | queued
  | badParam
  | wrongState
  | full
  | empty
  | notFound
  | duplicate
  | badOrder
  deriving DecidableEq, Repr

/-- The command in progress: its code, its latched parameters, and whether its block has taken it already (R175; WARM_RESET
stays in progress through its drain, R177). -/
structure Running where
  code : Byte
  params : Params
  taken : Bool
  deriving DecidableEq, Repr

/-- The management port. RESULT reads BUSY while `running` is not none, else `result`. -/
structure Mgmt where
  ma : BitVec 2
  pointer : BitVec 6
  bus : BusState
  ack : Bool
  out : List Byte
  param : Params
  command : Byte
  result : ResultCode
  running : Option Running
  data : Vector Byte 32
  dataX : Vector Byte 9
  deriving DecidableEq, Repr

/-! ### The part -/

/-- Everything the spec gives the part, and two fields of the model: `freeCount`, how many free values have been drawn,
and `pending`, the commands that wait, first in first out. -/
structure State where
  us : Nat
  remap : Remap
  regions : Vector Region 8
  srq : List SpareRequest
  engine : Option EngineCtx
  watch : Watch
  patrol : Patrol
  inject : Vector InjectSlot 4
  media : Media
  ctl : Ctl
  log : Log
  counters : Vector Nat 18
  flags : BitVec 16
  mask : BitVec 16
  mgmt : Mgmt
  freeCount : Nat
  pending : List Instr
  deriving DecidableEq, Repr

/-- The part never stops with a fault: the spec describes an answer, a record, a counter or a flag for every error, so no
step raises one. (Nothing to be safe or unsafe about.) -/
inductive Fault where
  deriving DecidableEq, Repr

/-- Why the model gives a command no meaning. -/
inductive Refusal where
  /-- Raised by an arm of `exec` whose row has no meaning yet. Safe: the model stops where the part goes on. -/
  | notModelled (mnemonic : String)
  deriving DecidableEq, Repr

/-- The default policy (R18); also every region's attributes at cold reset (R15). -/
def Policy.default : Policy :=
  { scrub := false, autospare := false, ueSpare := false, ueResponse := .fail, ceLog := false, cls := 0 }

/-- An injection slot with every field zero (R119). -/
def InjectSlot.zero : InjectSlot :=
  { armed := false, bank := 0, row := 0, column := .column 0, outcome := .corrected, onUpstream := false,
    onPatrol := false, onCopy := false, mode := .oneShot, n := 0, count := 0 }

/-- The part right after cold reset, with the straps SPR = 0 and MA = 0 (LOG 7). -/
def State.reset : State :=
  { us := 0
    remap := { s := reservationOfStrap 0, table := [], spares := [], lowWater := 2 }
    regions := Vector.replicate 8 { limit := 0, policy := Policy.default }
    srq := []
    engine := none
    watch := { entries := [], thresholds := #v[8, 16, 32, 64], period := 1000, nextExpiry := some 1000000 }
    patrol := { state := .stopped, cursor := 0, interval := 100, due := false, sweepReads := 0, cancel := false, timer := none }
    inject := Vector.replicate 4 InjectSlot.zero
    media := { slots := Vector.replicate 16 { epoch := 0, work := none }, failed := false, timeouts := 0, drain := none, out := [] }
    ctl := { linkUp := false, gate := .closed, g := 32, p := 0, irq := [], out := [] }
    log := { records := [], nextSeq := 0 }
    counters := Vector.replicate 18 0
    flags := 0
    mask := 0
    mgmt :=
      { ma := 0, pointer := 0, bus := .idle, ack := false, out := [], param := Vector.replicate 12 0, command := 0,
        result := .ok, running := none, data := Vector.replicate 32 0, dataX := Vector.replicate 9 0 }
    freeCount := 0
    pending := [] }

end Sys2Proof.Machine
end

