-- ==== Sys2Proof/Machine/Code.lean ====
section
/-! DEFINITION. The check code as chapter 5 gives it: the symbols of a stored line, the tests of R76 under a code and a poison
constant, and the guarantees of R75 and R77 that the part's own code meets (Machine/CheckCode.lean). -/

namespace Sys2Proof.Machine

/-- A stored line with one of its 144 four-bit symbols changed by `x`: symbols 0 to 127 are the data, 128 to 143 the check
bytes (5.1). -/
def changeSymbol (l : StoredLine) (i x : Nat) : StoredLine :=
  if i < 128 then { l with data := l.data ^^^ (BitVec.ofNat 512 x <<< (4 * i)) }
  else { l with check := l.check ^^^ (BitVec.ofNat 64 x <<< (4 * (i - 128))) }

/-- Two symbols of a line changed. -/
def changeTwo (l : StoredLine) (i x j y : Nat) : StoredLine := changeSymbol (changeSymbol l i x) j y

/-- The changes of one symbol: a symbol number below 144, and a change of 1 to 15. -/
def symbolChanges : List (Nat × Nat) := (List.range 144).flatMap fun i => (List.range 15).map fun x => (i, x + 1)

/-- Every stored line that differs from `l` in exactly one symbol. -/
def oneSymbolAway (l : StoredLine) : List StoredLine := symbolChanges.map fun c => changeSymbol l c.1 c.2

/-- The classification of a stored line under a check code and a poison constant, with the data it delivers: the tests of
R76 in order. Test 3 holds when exactly one changed symbol makes test 1 hold. -/
def classifyWith (code : LineData → CheckBytes) (constant : CheckBytes) (l : StoredLine) : ReadOutcome × LineData :=
  if l.check = code l.data then (.clean, l.data)
  else if l.check = code l.data ^^^ constant then (.poison, l.data)
  else
    match (oneSymbolAway l).filter fun x => x.check == code x.data with
    | [x] => (.corrected, x.data)
    | _ => (.uncorrectable, l.data)

/-- The guarantees of R75 and R77. For a line written with computed check bytes: one symbol in error reads CORRECTED with the data
as written, two read UNCORRECTABLE. For a poison marker: one or two symbols in error read UNCORRECTABLE. The constant is not zero.
A symbol number is below 144, a change of a symbol is 1 to 15. -/
structure CodePromise (code : LineData → CheckBytes) (constant : CheckBytes) : Prop where
  constant_nonzero : constant ≠ 0
  one_symbol : ∀ d i x, i < 144 → 1 ≤ x → x < 16 →
    classifyWith code constant (changeSymbol { data := d, check := code d } i x) = (.corrected, d)
  two_symbols : ∀ d i x j y, i < j → j < 144 → 1 ≤ x → x < 16 → 1 ≤ y → y < 16 →
    (classifyWith code constant (changeTwo { data := d, check := code d } i x j y)).1 = .uncorrectable
  marker_one : ∀ i x, i < 144 → 1 ≤ x → x < 16 →
    (classifyWith code constant (changeSymbol { data := 0, check := code 0 ^^^ constant } i x)).1 = .uncorrectable
  marker_two : ∀ i x j y, i < j → j < 144 → 1 ≤ x → x < 16 → 1 ≤ y → y < 16 →
    (classifyWith code constant (changeTwo { data := 0, check := code 0 ^^^ constant } i x j y)).1 = .uncorrectable

end Sys2Proof.Machine
end

