-- ==== Sys2Proof/Laws/CodeExists.lean ====
section
/-! SUPPORT. Some code meets the guarantees of R75 and R77: an example, one binary code of distance 4 on each of the four bit planes
of the symbols. It shows that the guarantees can be met; the part's code is another matter (Machine/CheckCode.lean). -/

namespace Sys2Proof.Machine.ExampleCode

/-! ### Sums of bits -/

/-- The exclusive-or of the first `n` values of `f`. -/
def xorSum : Nat → (Nat → Bool) → Bool
  | 0, _ => false
  | n + 1, f => xorSum n f ^^ f n

theorem xorSum_congr {n : Nat} {f g : Nat → Bool} (h : ∀ i, i < n → f i = g i) : xorSum n f = xorSum n g := by
  induction n with
  | zero => rfl
  | succ n ih => simp only [xorSum]; rw [ih fun i hi => h i (by omega), h n (by omega)]

theorem xorSum_xor (n : Nat) (f g : Nat → Bool) : xorSum n (fun i => f i ^^ g i) = (xorSum n f ^^ xorSum n g) := by
  induction n with
  | zero => rfl
  | succ n ih => simp only [xorSum, ih]; cases xorSum n f <;> cases xorSum n g <;> cases f n <;> cases g n <;> rfl

theorem xorSum_single (n i : Nat) (c : Bool) (h : i < n) : xorSum n (fun k => decide (k = i) && c) = c := by
  have none : ∀ m, m ≤ i → xorSum m (fun k => decide (k = i) && c) = false := by
    intro m
    induction m with
    | zero => intro; rfl
    | succ m ih => intro hm; simp only [xorSum]; rw [ih (by omega)]; simp; omega
  induction n with
  | zero => omega
  | succ n ih =>
    by_cases hi : n = i
    · subst hi; simp [xorSum, none n le_rfl]
    · simp only [xorSum]; rw [ih (by omega)]; simp [hi]

/-! ### Columns -/

/-- Sixteen pairs out of eight places. -/
def pairs : List Nat := [0x03, 0x05, 0x09, 0x11, 0x21, 0x41, 0x81, 0x06, 0x0A, 0x12, 0x22, 0x42, 0x82, 0x0C, 0x14, 0x24]

/-- The column of a symbol: three of sixteen places for a data symbol, one for a check symbol. -/
def column (i : Nat) : Nat := if i < 128 then 2 ^ (i % 8) + 256 * pairs.getD (i / 8) 0 else 2 ^ (i - 128)

/-- Place `j` of a column. -/
def col (i j : Nat) : Bool := (column i).testBit j

/-- How many of the first `n` values of `f` are true. -/
def weight : Nat → (Nat → Bool) → Nat
  | 0, _ => 0
  | n + 1, f => weight n f + if f n then 1 else 0

theorem weight_xor_le (n : Nat) (f g : Nat → Bool) : weight n (fun j => f j ^^ g j) ≤ weight n f + weight n g := by
  induction n with
  | zero => simp [weight]
  | succ n ih =>
    have h : ∀ a b : Bool, (if (a ^^ b) = true then 1 else 0) ≤ (if a = true then 1 else 0) + if b = true then 1 else 0 := by decide
    have := h (f n) (g n)
    simp only [weight]
    omega

theorem weight_xor_parity (n : Nat) (f g : Nat → Bool) :
    weight n (fun j => f j ^^ g j) % 2 = (weight n f + weight n g) % 2 := by
  induction n with
  | zero => simp [weight]
  | succ n ih =>
    have h : ∀ a b : Bool,
        (if (a ^^ b) = true then 1 else 0) % 2 = ((if a = true then 1 else 0) + if b = true then 1 else 0) % 2 := by decide
    have := h (f n) (g n)
    simp only [weight]
    omega

theorem weight_congr {n : Nat} {f g : Nat → Bool} (h : ∀ j, j < n → f j = g j) : weight n f = weight n g := by
  induction n with
  | zero => rfl
  | succ n ih => simp only [weight]; rw [ih fun i hi => h i (by omega), h n (by omega)]

theorem weight_false (n : Nat) : weight n (fun _ => false) = 0 := by
  induction n with
  | zero => rfl
  | succ n ih => simp [weight, ih]

theorem weight_true (n : Nat) : weight n (fun _ => true) = n := by
  induction n with
  | zero => rfl
  | succ n ih => simp [weight, ih]

theorem weight_and (n : Nat) (a : Bool) (f : Nat → Bool) : weight n (fun j => a && f j) = if a then weight n f else 0 := by
  cases a <;> simp [weight_false]

theorem column_weight : ∀ i, i < 144 → weight 16 (col i) = 1 ∨ weight 16 (col i) = 3 := by decide +kernel

theorem column_lt : ∀ i, i < 144 → column i < 65536 := by decide +kernel

theorem column_injective : ∀ i, i < 144 → ∀ j, j < i → column i ≠ column j := by decide +kernel

theorem col_apart {i j : Nat} (hi : i < 144) (hj : j < 144) (h : i ≠ j) : ∃ p, p < 16 ∧ col i p ≠ col j p := by
  by_contra hc
  push Not at hc
  have hcol : column i = column j := by
    apply Nat.eq_of_testBit_eq
    intro p
    by_cases hp : p < 16
    · exact hc p hp
    · have h16 : 65536 ≤ 2 ^ p := by
        calc 65536 = 2 ^ 16 := by norm_num
          _ ≤ 2 ^ p := Nat.pow_le_pow_right (by norm_num) (by omega)
      rw [Nat.testBit_lt_two_pow (lt_of_lt_of_le (column_lt i hi) h16), Nat.testBit_lt_two_pow (lt_of_lt_of_le (column_lt j hj) h16)]
  rcases Nat.lt_or_gt_of_ne h with hlt | hlt
  · exact column_injective j hj i hlt hcol.symm
  · exact column_injective i hi j hlt hcol

/-- The sum of up to three columns, each taken or not. -/
def three (a b c : Bool) (i j k p : Nat) : Bool := (a && col i p) ^^ (b && col j p) ^^ (c && col k p)

theorem three_weight (a b c : Bool) (i j k : Nat) :
    weight 16 (three a b c i j k) ≤ (if a then weight 16 (col i) else 0) + (if b then weight 16 (col j) else 0)
        + (if c then weight 16 (col k) else 0)
    ∧ weight 16 (three a b c i j k) % 2 = ((if a then weight 16 (col i) else 0) + (if b then weight 16 (col j) else 0)
        + (if c then weight 16 (col k) else 0)) % 2 := by
  have h1 := weight_xor_le 16 (fun p => (a && col i p) ^^ (b && col j p)) (fun p => c && col k p)
  have h2 := weight_xor_le 16 (fun p => a && col i p) (fun p => b && col j p)
  have h3 := weight_xor_parity 16 (fun p => (a && col i p) ^^ (b && col j p)) (fun p => c && col k p)
  have h4 := weight_xor_parity 16 (fun p => a && col i p) (fun p => b && col j p)
  simp only [weight_and] at h1 h2 h3 h4
  have e : weight 16 (three a b c i j k) = weight 16 (fun p => ((a && col i p) ^^ (b && col j p)) ^^ (c && col k p)) := rfl
  rw [e]
  omega

/-- Up to three columns never sum to all ones. -/
theorem three_not_ones (a b c : Bool) {i j k : Nat} (hi : i < 144) (hj : j < 144) (hk : k < 144) :
    ∃ p, p < 16 ∧ three a b c i j k p = false := by
  by_contra hc
  push Not at hc
  have hw : weight 16 (three a b c i j k) = 16 := by
    rw [weight_congr (g := fun _ => true) fun p hp => by simpa using hc p hp, weight_true]
  have h := (three_weight a b c i j k).1
  have hi := column_weight i hi
  have hj := column_weight j hj
  have hk := column_weight k hk
  split at h <;> split at h <;> split at h <;> omega

/-- One to three different columns never sum to zero. -/
theorem three_not_zero (a b c : Bool) {i j k : Nat} (hi : i < 144) (hj : j < 144) (hk : k < 144) (hij : i ≠ j) (hik : i ≠ k)
    (hjk : j ≠ k) (h : a || b || c) : ∃ p, p < 16 ∧ three a b c i j k p = true := by
  by_contra hc
  push Not at hc
  have hz : ∀ p, p < 16 → three a b c i j k p = false := fun p hp => by simpa using hc p hp
  have hw : weight 16 (three a b c i j k) = 0 := by
    rw [weight_congr (g := fun _ => false) hz, weight_false]
  have hp := (three_weight a b c i j k).2
  have wi := column_weight i hi
  have wj := column_weight j hj
  have wk := column_weight k hk
  cases a <;> cases b <;> cases c <;> simp [hw] at hp h
  · omega
  · omega
  · obtain ⟨p, hp, hne⟩ := col_apart hj hk hjk
    have := hz p hp
    simp [three] at this
    exact hne this
  · omega
  · obtain ⟨p, hp, hne⟩ := col_apart hi hk hik
    have := hz p hp
    simp [three] at this
    exact hne this
  · obtain ⟨p, hp, hne⟩ := col_apart hi hj hij
    have := hz p hp
    simp [three] at this
    exact hne this
  · omega

/-! ### The code -/

/-- The example code: place j of bit plane b is check bit 4j + b. -/
def code (d : LineData) : CheckBytes :=
  BitVec.ofFnLE fun k : Fin 64 => xorSum 128 fun i => d.getLsbD (4 * i + k.val % 4) && col i (k.val / 4)

/-- The example constant: all ones. -/
def constant : CheckBytes := BitVec.allOnes 64

/-- Place `j` of plane `b` of a stored line's check bytes against those computed over its data. -/
def syndrome (l : StoredLine) (j b : Nat) : Bool := l.check.getLsbD (4 * j + b) ^^ (code l.data).getLsbD (4 * j + b)

theorem code_bit (d : LineData) {j b : Nat} (hj : j < 16) (hb : b < 4) :
    (code d).getLsbD (4 * j + b) = xorSum 128 fun i => d.getLsbD (4 * i + b) && col i j := by
  have h : 4 * j + b < 64 := by omega
  rw [code, BitVec.getLsbD_ofFnLE, dif_pos h]
  have h1 : (4 * j + b) % 4 = b := by omega
  have h2 : (4 * j + b) / 4 = j := by omega
  simp only [h1, h2]

theorem clean_iff (l : StoredLine) : l.check = code l.data ↔ ∀ j, j < 16 → ∀ b, b < 4 → syndrome l j b = false := by
  constructor
  · intro h j _ b _
    simp [syndrome, h]
  · intro h
    apply BitVec.eq_of_getLsbD_eq
    intro k hk
    have := h (k / 4) (by omega) (k % 4) (by omega)
    rw [syndrome, show 4 * (k / 4) + k % 4 = k by omega] at this
    simpa using this

theorem poison_iff (l : StoredLine) : l.check = code l.data ^^^ constant ↔ ∀ j, j < 16 → ∀ b, b < 4 → syndrome l j b = true := by
  constructor
  · intro h j hj b hb
    have hk : 4 * j + b < 64 := by omega
    simp only [syndrome, h, constant]
    rw [BitVec.getLsbD_xor, BitVec.getLsbD_allOnes]
    cases (code l.data).getLsbD (4 * j + b) <;> simp [hk]
  · intro h
    apply BitVec.eq_of_getLsbD_eq
    intro k hk
    have := h (k / 4) (by omega) (k % 4) (by omega)
    rw [syndrome, show 4 * (k / 4) + k % 4 = k by omega] at this
    rw [constant, BitVec.getLsbD_xor, BitVec.getLsbD_allOnes]
    simp only [hk, decide_true]
    cases h1 : l.check.getLsbD k <;> cases h2 : (code l.data).getLsbD k <;> simp_all

/-- Bit `4m + b` of a symbol change placed at symbol `i`. -/
theorem shifted_bit {w : Nat} (x i m b : Nat) (hx : x < 16) (hb : b < 4) (hw : 4 * m + b < w) :
    (BitVec.ofNat w x <<< (4 * i)).getLsbD (4 * m + b) = (decide (m = i) && x.testBit b) := by
  rw [BitVec.getLsbD_shiftLeft, BitVec.getLsbD_ofNat]
  have big : ∀ n, 4 ≤ n → x.testBit n = false := fun n hn =>
    Nat.testBit_lt_two_pow (lt_of_lt_of_le hx (by calc 16 = 2 ^ 4 := by norm_num
      _ ≤ 2 ^ n := Nat.pow_le_pow_right (by norm_num) hn))
  by_cases h : m = i
  · subst h
    have h1 : 4 * m + b - 4 * m = b := by omega
    have h2 : b < w := by omega
    simp [hw, h1, h2]
  · by_cases hlt : m < i
    · have : 4 * m + b < 4 * i := by omega
      simp [this, h]
    · have h3 : 4 ≤ 4 * m + b - 4 * i := by omega
      simp [h, big _ h3]

/-- What one changed symbol does to the syndrome. -/
theorem syndrome_change (l : StoredLine) (i x : Nat) (hi : i < 144) (hx : x < 16) {j b : Nat} (hj : j < 16) (hb : b < 4) :
    syndrome (changeSymbol l i x) j b = (syndrome l j b ^^ (x.testBit b && col i j)) := by
  unfold changeSymbol
  split
  · rename_i h
    simp only [syndrome]
    rw [code_bit _ hj hb, code_bit _ hj hb]
    have e : xorSum 128 (fun k => (l.data ^^^ (BitVec.ofNat 512 x <<< (4 * i))).getLsbD (4 * k + b) && col k j)
        = (xorSum 128 (fun k => l.data.getLsbD (4 * k + b) && col k j) ^^ (x.testBit b && col i j)) := by
      rw [← xorSum_single 128 i (x.testBit b && col i j) h, ← xorSum_xor]
      apply xorSum_congr
      intro k hk
      rw [BitVec.getLsbD_xor, shifted_bit x i k b hx hb (by omega)]
      by_cases hki : k = i
      · subst hki
        cases l.data.getLsbD (4 * k + b) <;> cases x.testBit b <;> cases col k j <;> simp
      · simp [hki]
    rw [e]
    cases l.check.getLsbD (4 * j + b) <;>
      cases xorSum 128 (fun k => l.data.getLsbD (4 * k + b) && col k j) <;> cases (x.testBit b && col i j) <;> rfl
  · rename_i h
    simp only [syndrome]
    rw [BitVec.getLsbD_xor, shifted_bit x (i - 128) j b hx hb (by omega)]
    have e : col i j = decide (j = i - 128) := by
      rw [col, column, if_neg h, Nat.testBit_two_pow]
      simp [eq_comm]
    rw [e]
    cases l.check.getLsbD (4 * j + b) <;> cases (code l.data).getLsbD (4 * j + b) <;> cases x.testBit b <;> simp

/-! ### The guarantees -/

theorem bit_of_change {x : Nat} (h1 : 1 ≤ x) (h2 : x < 16) : ∃ b, b < 4 ∧ x.testBit b = true := by
  have : ∀ x, x < 16 → 1 ≤ x → ∃ b, b < 4 ∧ x.testBit b = true := by decide
  exact this x h2 h1

theorem bit_apart {x y : Nat} (hx : x < 16) (hy : y < 16) (h : x ≠ y) : ∃ b, b < 4 ∧ (x.testBit b ^^ y.testBit b) = true := by
  have : ∀ x, x < 16 → ∀ y, y < 16 → x ≠ y → ∃ b, b < 4 ∧ (x.testBit b ^^ y.testBit b) = true := by decide
  exact this x hx y hy h

theorem mem_symbolChanges {c : Nat × Nat} : c ∈ symbolChanges ↔ c.1 < 144 ∧ 1 ≤ c.2 ∧ c.2 < 16 := by
  obtain ⟨i, x⟩ := c
  simp only [symbolChanges, List.mem_flatMap, List.mem_map, List.mem_range, Prod.mk.injEq]
  constructor
  · rintro ⟨i', hi, x', hx, rfl, rfl⟩
    omega
  · rintro ⟨hi, h1, h2⟩
    exact ⟨i, hi, x - 1, by omega, rfl, by omega⟩

theorem symbolChanges_nodup : symbolChanges.Nodup := by
  rw [symbolChanges, List.nodup_flatMap]
  refine ⟨fun i _ => (List.nodup_map_iff fun x y h => by simpa using h).mpr List.nodup_range, ?_⟩
  refine List.nodup_range.imp fun hne => ?_
  intro c hc hc'
  obtain ⟨x, -, rfl⟩ := List.mem_map.mp hc
  obtain ⟨y, -, h⟩ := List.mem_map.mp hc'
  exact hne (by simpa using (Prod.mk.inj h).1.symm)

/-- A list with no duplicates, filtered for one of its members. -/
theorem filter_single {α : Type} [DecidableEq α] {l : List α} (hn : l.Nodup) {a : α} (ha : a ∈ l) (p : α → Bool)
    (hp : ∀ c ∈ l, p c = true ↔ c = a) : l.filter p = [a] := by
  induction l with
  | nil => cases ha
  | cons b l ih =>
    rw [List.nodup_cons] at hn
    by_cases hb : b = a
    · subst hb
      rw [List.filter_cons_of_pos ((hp b (by simp)).mpr rfl)]
      rw [List.filter_eq_nil_iff.mpr]
      intro c hc hpc
      exact hn.1 ((hp c (by simp [hc])).mp hpc ▸ hc)
    · rw [List.filter_cons_of_neg (fun h => hb ((hp b (by simp)).mp h))]
      exact ih hn.2 (by simpa [Ne.symm hb] using ha) fun c hc => hp c (by simp [hc])

/-- A line that is not clean, not a poison line, and has no clean line one symbol away is UNCORRECTABLE. -/
theorem classify_uncorrectable {l : StoredLine} (h1 : ∃ j, j < 16 ∧ ∃ b, b < 4 ∧ syndrome l j b = true)
    (h2 : ∃ j, j < 16 ∧ ∃ b, b < 4 ∧ syndrome l j b = false)
    (h3 : ∀ i x, i < 144 → 1 ≤ x → x < 16 → ∃ j, j < 16 ∧ ∃ b, b < 4 ∧ syndrome (changeSymbol l i x) j b = true) :
    (classifyWith code constant l).1 = .uncorrectable := by
  obtain ⟨j, hj, b, hb, h⟩ := h1
  obtain ⟨j', hj', b', hb', h'⟩ := h2
  unfold classifyWith
  rw [if_neg fun hc => by simp [(clean_iff l).mp hc j hj b hb] at h]
  rw [if_neg fun hc => by simp [(poison_iff l).mp hc j' hj' b' hb'] at h']
  have : ((oneSymbolAway l).filter fun x => x.check == code x.data) = [] := by
    rw [List.filter_eq_nil_iff]
    intro y hy
    obtain ⟨⟨i, x⟩, hc, rfl⟩ := List.mem_map.mp hy
    obtain ⟨hi, h1, h2⟩ := mem_symbolChanges.mp hc
    obtain ⟨j, hj, b, hb, h⟩ := h3 i x hi h1 h2
    simp only [beq_iff_eq]
    intro hcl
    simp [(clean_iff _).mp hcl j hj b hb] at h
  rw [this]

/-- A line written with computed check bytes has a zero syndrome, a poison marker one of all ones. -/
theorem sealed_syndrome (d : LineData) (j b : Nat) : syndrome { data := d, check := code d } j b = false := by
  simp [syndrome]

theorem marker_syndrome {j b : Nat} (hj : j < 16) (hb : b < 4) :
    syndrome { data := 0, check := code 0 ^^^ constant } j b = true :=
  (poison_iff { data := 0, check := code 0 ^^^ constant }).mp rfl j hj b hb

/-- A symbol that is neither of two given ones. -/
theorem other_symbol (i j : Nat) : ∃ k, k < 144 ∧ k ≠ i ∧ k ≠ j := by
  by_cases h0 : 0 = i ∨ 0 = j
  · by_cases h1 : 1 = i ∨ 1 = j
    · exact ⟨2, by omega, by omega, by omega⟩
    · exact ⟨1, by omega, by omega, by omega⟩
  · exact ⟨0, by omega, by omega, by omega⟩

theorem one_symbol (d : LineData) (i x : Nat) (hi : i < 144) (h1 : 1 ≤ x) (h2 : x < 16) :
    classifyWith code constant (changeSymbol { data := d, check := code d } i x) = (.corrected, d) := by
  obtain ⟨b, hb, hbit⟩ := bit_of_change h1 h2
  obtain ⟨k, hk, hki, -⟩ := other_symbol i i
  obtain ⟨m, hm, hmi, hmk⟩ := other_symbol i k
  have syn : ∀ j, j < 16 → ∀ b, b < 4 →
      syndrome (changeSymbol { data := d, check := code d } i x) j b = (x.testBit b && col i j) := by
    intro j hj b hb
    rw [syndrome_change _ _ _ hi h2 hj hb, sealed_syndrome, Bool.false_xor]
  unfold classifyWith
  rw [if_neg, if_neg]
  · have : ((oneSymbolAway (changeSymbol { data := d, check := code d } i x)).filter fun y => y.check == code y.data)
        = [changeSymbol (changeSymbol { data := d, check := code d } i x) i x] := by
      rw [oneSymbolAway, List.filter_map,
        filter_single symbolChanges_nodup (mem_symbolChanges.mpr ⟨hi, h1, h2⟩ : (i, x) ∈ symbolChanges)]
      · rfl
      · rintro ⟨i', x'⟩ hc
        obtain ⟨hi', h1', h2'⟩ := mem_symbolChanges.mp hc
        simp only [Function.comp, beq_iff_eq, clean_iff, Prod.mk.injEq]
        constructor
        · intro hcl
          by_cases hii : i' = i
          · subst hii
            refine ⟨rfl, ?_⟩
            by_contra hne
            obtain ⟨b', hb', hxy⟩ := bit_apart h2' h2 hne
            obtain ⟨j, hj, ht⟩ := three_not_zero true false false hi' hk hm (Ne.symm hki) (Ne.symm hmi) (Ne.symm hmk) rfl
            have := hcl j hj b' hb'
            rw [syndrome_change _ _ _ hi' h2' hj hb', syn j hj b' hb'] at this
            simp [three] at ht
            rw [ht] at this
            revert this hxy
            cases x.testBit b' <;> cases x'.testBit b' <;> simp
          · exfalso
            obtain ⟨n, hn, hni, hni'⟩ := other_symbol i i'
            obtain ⟨j, hj, ht⟩ :=
              three_not_zero true (x'.testBit b) false hi hi' hn (Ne.symm hii) (Ne.symm hni) (Ne.symm hni') rfl
            have := hcl j hj b hb
            rw [syndrome_change _ _ _ hi' h2' hj hb, syn j hj b hb, hbit] at this
            simp only [three, Bool.true_and, Bool.false_and, Bool.xor_false] at ht
            rw [Bool.true_and, ht] at this
            cases this
        · rintro ⟨rfl, rfl⟩ j hj b hb
          rw [syndrome_change _ _ _ hi' h2' hj hb, syn j hj b hb, Bool.xor_self]
    rw [this]
    have data : (changeSymbol (changeSymbol { data := d, check := code d } i x) i x).data = d := by
      unfold changeSymbol
      split <;> simp [*]
    exact congrArg (Prod.mk ReadOutcome.corrected) data
  · rw [poison_iff]
    intro hc
    obtain ⟨j, hj, ht⟩ := three_not_ones true false false hi hk hm
    have := hc j hj b hb
    rw [syn j hj b hb] at this
    simp [three] at ht
    simp [ht] at this
  · rw [clean_iff]
    intro hc
    obtain ⟨j, hj, ht⟩ := three_not_zero true false false hi hk hm (Ne.symm hki) (Ne.symm hmi) (Ne.symm hmk) rfl
    have := hc j hj b hb
    rw [syn j hj b hb, hbit] at this
    simp [three] at ht
    simp [ht] at this

/-- What up to three changed symbols add to the syndrome, two of them fixed and different: it is neither zero nor all ones. -/
theorem two_and_one {i x j y : Nat} (hij : i < j) (hj : j < 144) (h1 : 1 ≤ x) (h2 : x < 16) (h3 : 1 ≤ y) (h4 : y < 16) (i' x' : Nat)
    (hi' : i' < 144) :
    (∃ p, p < 16 ∧ ∃ b, b < 4 ∧ ((x.testBit b && col i p) ^^ (y.testBit b && col j p) ^^ (x'.testBit b && col i' p)) = true)
    ∧ (∃ p, p < 16 ∧ ∃ b, b < 4 ∧ ((x.testBit b && col i p) ^^ (y.testBit b && col j p) ^^ (x'.testBit b && col i' p)) = false) := by
  have hi : i < 144 := by omega
  refine ⟨?_, ?_⟩
  · by_cases hii : i' = i
    · subst hii
      obtain ⟨b, hb, hbit⟩ := bit_of_change h3 h4
      obtain ⟨k, hk, hki, hkj⟩ := other_symbol i' j
      obtain ⟨p, hp, ht⟩ := three_not_zero (x.testBit b ^^ x'.testBit b) true false hi hj hk (by omega) (Ne.symm hki)
        (Ne.symm hkj) (by simp)
      refine ⟨p, hp, b, hb, ?_⟩
      rw [hbit]
      simp only [three] at ht
      revert ht
      cases x.testBit b <;> cases x'.testBit b <;> cases col i' p <;> cases col j p <;> simp
    · by_cases hij' : i' = j
      · subst hij'
        obtain ⟨b, hb, hbit⟩ := bit_of_change h1 h2
        obtain ⟨k, hk, hki, hkj⟩ := other_symbol i i'
        obtain ⟨p, hp, ht⟩ := three_not_zero true (y.testBit b ^^ x'.testBit b) false hi hj hk (by omega) (Ne.symm hki)
          (Ne.symm hkj) (by simp)
        refine ⟨p, hp, b, hb, ?_⟩
        rw [hbit]
        simp only [three] at ht
        revert ht
        cases y.testBit b <;> cases x'.testBit b <;> cases col i' p <;> cases col i p <;> simp
      · obtain ⟨b, hb, hbit⟩ := bit_of_change h1 h2
        obtain ⟨p, hp, ht⟩ := three_not_zero true (y.testBit b) (x'.testBit b) hi hj hi' (by omega) (Ne.symm hii) (Ne.symm hij') rfl
        exact ⟨p, hp, b, hb, by rw [hbit]; exact ht⟩
  · obtain ⟨p, hp, ht⟩ := three_not_ones (x.testBit 0) (y.testBit 0) (x'.testBit 0) hi hj hi'
    exact ⟨p, hp, 0, by omega, ht⟩

theorem syndrome_two (l : StoredLine) {i x j y : Nat} (hi : i < 144) (hj : j < 144) (hx : x < 16) (hy : y < 16) {p b : Nat}
    (hp : p < 16) (hb : b < 4) :
    syndrome (changeTwo l i x j y) p b = (syndrome l p b ^^ (x.testBit b && col i p) ^^ (y.testBit b && col j p)) := by
  rw [changeTwo, syndrome_change _ _ _ hj hy hp hb, syndrome_change _ _ _ hi hx hp hb]

theorem promise : CodePromise code constant where
  constant_nonzero := by decide
  one_symbol := one_symbol
  two_symbols := by
    intro d i x j y hij hj h1 h2 h3 h4
    have hi : i < 144 := by omega
    obtain ⟨⟨p, hp, b, hb, h⟩, ⟨p', hp', b', hb', h'⟩⟩ := two_and_one hij hj h1 h2 h3 h4 i 0 hi
    apply classify_uncorrectable
    · exact ⟨p, hp, b, hb, by rw [syndrome_two _ hi hj h2 h4 hp hb, sealed_syndrome]; simpa using h⟩
    · exact ⟨p', hp', b', hb', by rw [syndrome_two _ hi hj h2 h4 hp' hb', sealed_syndrome]; simpa using h'⟩
    · intro i' x' hi' _ hx'
      obtain ⟨⟨p, hp, b, hb, h⟩, -⟩ := two_and_one hij hj h1 h2 h3 h4 i' x' hi'
      exact ⟨p, hp, b, hb, by
        rw [syndrome_change _ _ _ hi' hx' hp hb, syndrome_two _ hi hj h2 h4 hp hb, sealed_syndrome, Bool.false_xor]; exact h⟩
  marker_one := by
    intro i x hi h1 h2
    obtain ⟨b, hb, hbit⟩ := bit_of_change h1 h2
    obtain ⟨k, hk, hki, -⟩ := other_symbol i i
    obtain ⟨m, hm, hmi, hmk⟩ := other_symbol i k
    apply classify_uncorrectable
    · obtain ⟨p, hp, ht⟩ := three_not_ones true false false hi hk hm
      refine ⟨p, hp, b, hb, ?_⟩
      rw [syndrome_change _ _ _ hi h2 hp hb, marker_syndrome hp hb, hbit]
      simp [three] at ht
      simp [ht]
    · obtain ⟨p, hp, ht⟩ := three_not_zero true false false hi hk hm (Ne.symm hki) (Ne.symm hmi) (Ne.symm hmk) rfl
      refine ⟨p, hp, b, hb, ?_⟩
      rw [syndrome_change _ _ _ hi h2 hp hb, marker_syndrome hp hb, hbit]
      simp [three] at ht
      simp [ht]
    · intro i' x' hi' _ hx'
      obtain ⟨p, hp, ht⟩ := three_not_ones (x.testBit b) (x'.testBit b) false hi hi' hk
      refine ⟨p, hp, b, hb, ?_⟩
      rw [syndrome_change _ _ _ hi' hx' hp hb, syndrome_change _ _ _ hi h2 hp hb, marker_syndrome hp hb]
      simp only [three, Bool.false_and, Bool.xor_false] at ht
      rw [Bool.xor_assoc, ht]
      rfl
  marker_two := by
    intro i x j y hij hj h1 h2 h3 h4
    have hi : i < 144 := by omega
    obtain ⟨⟨p, hp, b, hb, h⟩, ⟨p', hp', b', hb', h'⟩⟩ := two_and_one hij hj h1 h2 h3 h4 i 0 hi
    have zero : ∀ b i p, (Nat.testBit 0 b && col i p) = false := by simp
    apply classify_uncorrectable
    · refine ⟨p', hp', b', hb', ?_⟩
      rw [syndrome_two _ hi hj h2 h4 hp' hb', marker_syndrome hp' hb', Bool.xor_assoc]
      rw [zero, Bool.xor_false] at h'
      rw [h']
      rfl
    · refine ⟨p, hp, b, hb, ?_⟩
      rw [syndrome_two _ hi hj h2 h4 hp hb, marker_syndrome hp hb, Bool.xor_assoc]
      rw [zero, Bool.xor_false] at h
      rw [h]
      rfl
    · intro i' x' hi' _ hx'
      obtain ⟨-, ⟨p, hp, b, hb, h⟩⟩ := two_and_one hij hj h1 h2 h3 h4 i' x' hi'
      refine ⟨p, hp, b, hb, ?_⟩
      rw [syndrome_change _ _ _ hi' hx' hp hb, syndrome_two _ hi hj h2 h4 hp hb, marker_syndrome hp hb, Bool.xor_assoc,
        Bool.xor_assoc, ← Bool.xor_assoc (x.testBit b && col i p), h]
      rfl

end Sys2Proof.Machine.ExampleCode
end

