-- ==== Sys2Proof/Machine/CheckCode.lean ====
section
/-! DEFINITION. The part's check code and poison constant: free values that meet the guarantees of R75 and R77. -/

namespace Sys2Proof.Machine

/-- A check code and a poison constant that meet the guarantees of R75 and R77. The defaults only show that there is one
(Laws/CodeExists.lean); the part's is `Config.checkCode`. -/
structure CheckCode where
  bytes : LineData → CheckBytes := ExampleCode.code
  constant : CheckBytes := ExampleCode.constant
  promise : CodePromise bytes constant := by exact ExampleCode.promise
  deriving Inhabited

end Sys2Proof.Machine

namespace Sys2Proof.Config

/-- FREE VALUE (LOG 9, LOG 10): the part's check code and poison constant. The manual leaves out how the code is built (00, "Scope")
and gives its guarantees, which the type carries (R75, R77); nothing else is known of it. -/
opaque checkCode : Machine.CheckCode

/-- The check bytes computed over 64 data bytes (R74). -/
def checkBytes : LineData → CheckBytes := checkCode.bytes

/-- The poison constant: fixed in the part and not zero (R77, R88). -/
def poisonConstant : CheckBytes := checkCode.constant

end Sys2Proof.Config
end

