-- ==== Sys2Proof/Machine/Flags.lean ====
section
/-! DEFINITION. What every block reports through: the time base, the event flags with the alert mask and ALERT_N, the
counters, and the fault log (chapter 11). -/

namespace Sys2Proof.Machine

/-! ### Time base -/

/-- The millisecond count of the time base: 32 bits, wraps (00, "Time"; LOG 1). -/
def State.now (s : State) : Millis := BitVec.ofNat 32 (s.us / 1000)

/-- The time base carried on to `t` µs, never back: an expiry falls at its timer's deadline (LOG 2). -/
def State.advanceTo (s : State) (t : Nat) : State := { s with us := max s.us t }

/-! ### Event flags -/

/-- The eleven event flags (R168). -/
inductive Flag where
  | logNonempty
  | logOverflow
  | ueSeen
  | spareDone
  | spareRefused
  | poolLow
  | tableFull
  | mediaFailed
  | sweepDone
  | gateClosed
  | cmdOverrun
  deriving DecidableEq, Repr

/-- The bit of a flag, FLAGS0 in bits 0 to 7 and FLAGS1 in bits 8 to 15 (R174). -/
def Flag.bit : Flag → Nat
  | .logNonempty => 0
  | .logOverflow => 1
  | .ueSeen => 2
  | .spareDone => 3
  | .spareRefused => 4
  | .poolLow => 5
  | .tableFull => 6
  | .mediaFailed => 7
  | .sweepDone => 8
  | .gateClosed => 9
  | .cmdOverrun => 10

/-- The bits that name a flag (R174). -/
def flagPositions : BitVec 16 := 0x07FF

/-- A flag's event sets it; a flag already set stays set (R168). -/
def State.setFlag (s : State) (f : Flag) : State := { s with flags := s.flags ||| (1#16 <<< f.bit) }

/-- FLAGS1:FLAGS0 as they read: LOG_NONEMPTY follows the log (R169), bits 11 to 15 read as 0 (R174). -/
def State.flagBits (s : State) : BitVec 16 :=
  (s.flags &&& 0x07FE) ||| (if s.log.records.isEmpty then 0 else 1)

/-- Whether a flag reads set. -/
def State.flag (s : State) (f : Flag) : Bool := s.flagBits.getLsbD f.bit

/-- Writing 1 to a flag bit clears the flag, writing 0 leaves it; each byte acts on its own flags (R168, R174). -/
def State.clearFlags (s : State) (which : FlagByte) (value : Byte) : State :=
  match which with
  | .flags0 => { s with flags := s.flags &&& ~~~(value.setWidth 16) }
  | .flags1 => { s with flags := s.flags &&& ~~~(value.setWidth 16 <<< 8) }

/-- ALERT_N is driven low exactly while a flag is set whose enable is set in the mask (R170). -/
def State.alertLow (s : State) : Bool := s.flagBits &&& s.mask != 0

/-! ### Counters -/

/-- The eighteen counters, in the order of the table of R166. -/
inductive Counter where
  | ceTotal
  | ueTotal
  | poisonReads
  | lateCompletions
  | mediaTimeouts
  | scrubWritebacks
  | scrubCancelled
  | sweeps
  | protocolErrors
  | creditOverruns
  | notOpenRefusals
  | logLost
  | watchEvictions
  | watchMisses
  | sparesDone
  | sparesRefused
  | spareRequestsLost
  | migrationRestarts
  deriving DecidableEq, Repr

/-- The place of a counter in the table of R166. -/
def Counter.index : Counter → Fin 18
  | .ceTotal => 0
  | .ueTotal => 1
  | .poisonReads => 2
  | .lateCompletions => 3
  | .mediaTimeouts => 4
  | .scrubWritebacks => 5
  | .scrubCancelled => 6
  | .sweeps => 7
  | .protocolErrors => 8
  | .creditOverruns => 9
  | .notOpenRefusals => 10
  | .logLost => 11
  | .watchEvictions => 12
  | .watchMisses => 13
  | .sparesDone => 14
  | .sparesRefused => 15
  | .spareRequestsLost => 16
  | .migrationRestarts => 17

/-- The first place and the number of the counters of a group (R166). -/
def counterGroup : Nat → Nat × Nat
  | 0 => (0, 8)
  | 1 => (8, 4)
  | _ => (12, 6)

/-- The value of a counter. -/
def State.counter (s : State) (c : Counter) : Nat := s.counters[c.index]

/-- A counter rises by 1 at its event and saturates at 65,535 (R166). -/
def State.count (s : State) (c : Counter) : State :=
  { s with counters := s.counters.set c.index (min (s.counters[c.index] + 1) Config.counterMax) }

/-- The values of a group, in the order of the table of R166 (R167). -/
def State.groupValues (s : State) (group : Nat) : List Nat :=
  (s.counters.toList.drop (counterGroup group).1).take (counterGroup group).2

/-- Every counter of a group set to 0 (R167). -/
def State.clearGroup (s : State) (group : Nat) : State :=
  { s with counters := Vector.ofFn fun i : Fin 18 =>
      if (counterGroup group).1 ≤ i.val ∧ i.val < (counterGroup group).1 + (counterGroup group).2 then 0 else s.counters[i] }

/-! ### Fault log -/

/-- The four severities of a record (R160). -/
inductive Severity where
  | info
  | corrected
  | degraded
  | critical
  deriving DecidableEq, Repr

/-- The severity of a record is fixed by its kind (R161). -/
def FaultKind.severity : FaultKind → Severity
  | .ceUpstream => .corrected
  | .cePatrol => .corrected
  | .ceCopy => .corrected
  | .ueUpstream => .degraded
  | .uePatrol => .degraded
  | .ueCopy => .degraded
  | .budgetExhausted => .degraded
  | .spareStarted => .info
  | .spareDone => .info
  | .spareAborted => .degraded
  | .spareRefused => .degraded
  | .spareRequestLost => .degraded
  | .migrationRestart => .degraded
  | .mediaTimeout => .degraded
  | .mediaFailed => .critical
  | .protocol => .info
  | .range => .info

/-- A record offered to the log: stored at the tail with the next sequence number while the log holds fewer than 32
records; else dropped, LOG_LOST counted and LOG_OVERFLOW set (R162). -/
def State.offerRecord (s : State) (o : Offer) : State :=
  if s.log.records.length < Config.logPlaces then
    { s with log := { records := s.log.records ++ [{ seq := s.log.nextSeq, body := o }], nextSeq := s.log.nextSeq + 1 } }
  else (s.count .logLost).setFlag .logOverflow

end Sys2Proof.Machine
end

