-- ==== Sys2Proof/Machine/Ops.lean ====
section
/-! DEFINITION. The named operations that several blocks share: outputs, the Remap Table and the pools (chapter 3),
policy lookup (chapter 2), translation (chapter 1), the media slots (chapter 9) and the Inbound Request Queue (chapter 10). -/

namespace Sys2Proof.Machine

/-! ### Outputs -/

/-- A message placed on the controller link, behind those placed before it (R142). -/
def State.send (s : State) (m : CtlMsg) : State := { s with ctl := { s.ctl with out := s.ctl.out ++ [m] } }

/-- A media operation placed on the media port (R127). -/
def State.issueOp (s : State) (op : MediaOp) : State := { s with media := { s.media with out := s.media.out ++ [op] } }

/-! ### Remap Table (R26, R27) -/

/-- Whether an entry is MIGRATING. -/
def RemapEntry.isMigrating (e : RemapEntry) : Bool :=
  match e.state with
  | .active => false
  | .migrating _ => true

/-- The search of the slots that are not FREE for the key (bank, row), with the slot number of the entry found (R27). -/
def Remap.find (r : Remap) (bank row : Nat) : Option (Nat × RemapEntry) :=
  r.table.find? fun x => x.2.bank == bank && x.2.row == row

/-- The entry of a slot; none: the slot is FREE. -/
def Remap.entryAt (r : Remap) (slot : Nat) : Option RemapEntry :=
  (r.table.find? fun x => x.1 == slot).map (·.2)

/-- The lowest-numbered FREE slot (R27); none: the table is full. -/
def Remap.freeSlot (r : Remap) : Option Nat :=
  (List.range Config.tableSlots).find? fun n => r.table.all fun x => x.1 != n

/-- An entry put into a slot, in the order of the slot numbers; the slot's former entry, if any, is replaced. -/
def putEntry (slot : Nat) (e : RemapEntry) : List (Nat × RemapEntry) → List (Nat × RemapEntry)
  | [] => [(slot, e)]
  | x :: xs =>
    if slot < x.1 then (slot, e) :: x :: xs
    else if slot = x.1 then (slot, e) :: xs
    else x :: putEntry slot e xs

/-- A slot made FREE. -/
def dropSlot (slot : Nat) (t : List (Nat × RemapEntry)) : List (Nat × RemapEntry) := t.filter fun x => x.1 != slot

/-- The table with a slot's entry put in place. -/
def State.putEntry (s : State) (slot : Nat) (e : RemapEntry) : State :=
  { s with remap := { s.remap with table := Machine.putEntry slot e s.remap.table } }

/-- The table with a slot made FREE. -/
def State.dropSlot (s : State) (slot : Nat) : State :=
  { s with remap := { s.remap with table := Machine.dropSlot slot s.remap.table } }

/-- A new entry put into a FREE slot; filling the 256th slot sets TABLE_FULL (R27). -/
def State.createEntry (s : State) (slot : Nat) (e : RemapEntry) : State :=
  let s := s.putEntry slot e
  if s.remap.table.length = Config.tableSlots then s.setFlag .tableFull else s

/-! ### Spares and pools (R30, R31, R33) -/

/-- The state of a spare index of a bank (R30). -/
def Remap.spareState (r : Remap) (bank index : Nat) : SpareState :=
  match r.spares.find? fun m => m.bank == bank && m.index == index with
  | none => .free
  | some m => if m.dead then .dead else .assigned

/-- A mark put in its place in (bank, index) order. -/
def insertMark (m : SpareMark) : List SpareMark → List SpareMark
  | [] => [m]
  | x :: xs =>
    if m.bank < x.bank ∨ (m.bank = x.bank ∧ m.index < x.index) then m :: x :: xs else x :: insertMark m xs

/-- The state of one spare changed (R31). -/
def Remap.setSpare (r : Remap) (bank index : Nat) (st : SpareState) : Remap :=
  let rest := r.spares.filter fun m => !(m.bank == bank && m.index == index)
  { r with spares :=
      match st with
      | .free => rest
      | .assigned => insertMark { bank := bank, index := index, dead := false } rest
      | .dead => insertMark { bank := bank, index := index, dead := true } rest }

/-- The pool of a bank: its FREE spare indices in ascending order (R30). -/
def Remap.pool (r : Remap) (bank : Nat) : List Nat :=
  (List.range r.s).filter fun k => r.spareState bank k = .free

/-- The number of spares of a bank in a state; the free count is the size of the pool (R30, R45). -/
def Remap.countSpares (r : Remap) (bank : Nat) (st : SpareState) : Nat :=
  ((List.range r.s).filter fun k => r.spareState bank k = st).length

/-- The low-water test of an operation that lowered a bank's free count (R33). -/
def State.testLowWater (s : State) (bank : Nat) : State :=
  if (s.remap.pool bank).length < s.remap.lowWater then s.setFlag .poolLow else s

/-- allocate lowest, assign named: the spare becomes ASSIGNED and leaves the pool, and the mark is tested (R31, R33). -/
def State.assignSpare (s : State) (bank index : Nat) : State :=
  { s with remap := s.remap.setSpare bank index .assigned }.testLowWater bank

/-- return: the spare becomes FREE and takes its ordered place in the pool (R31). -/
def State.returnSpare (s : State) (bank index : Nat) : State :=
  { s with remap := s.remap.setSpare bank index .free }

/-- retire: an ASSIGNED spare becomes DEAD (R31); no free count changes. -/
def State.retireSpare (s : State) (bank index : Nat) : State :=
  { s with remap := s.remap.setSpare bank index .dead }

/-- mark dead: a FREE spare becomes DEAD and leaves the pool, and the mark is tested (R31, R33). -/
def State.markDead (s : State) (bank index : Nat) : State :=
  { s with remap := s.remap.setSpare bank index .dead }.testLowWater bank

/-! ### Policy (R16, R18, R19) -/

/-- The policy that governs a logical row: that of the first region whose limit lies above it, else the default (R16, R18). -/
def governing (regions : List Region) (row : Nat) : Policy :=
  match regions.find? fun g => row < g.limit with
  | some g => g.policy
  | none => Policy.default

/-- The governing policy looked up now (R19). -/
def State.policy (s : State) (row : Nat) : Policy := governing s.regions.toList row

/-! ### Physical rows (R2, R10, R11) -/

/-- The physical row a migration source names (R10). -/
def sourceRow (s : Nat) (row : Nat) : Source → Nat
  | .original => row
  | .spare k => spareRowOf s k

/-- The standing of a physical row, with the logical row it serves (R11); `migrating` says that the entry is MIGRATING. -/
inductive Standing where
  | originalInUse (row : Nat)
  | originalOutOfUse
  | migrationSource (row : Nat)
  | spareInUse (row : Nat) (migrating : Bool)
  | unassignedSpare
  deriving DecidableEq, Repr

/-- The standing of physical row `p` of a bank under the current S and Remap Table (R11). -/
def Remap.standing (r : Remap) (bank p : Nat) : Standing :=
  if p < visibleRows r.s then
    match r.find bank p with
    | none => .originalInUse p
    | some x =>
      match x.2.state with
      | .active => .originalOutOfUse
      | .migrating .original => .migrationSource p
      | .migrating (.spare _) => .originalOutOfUse
  else
    let k := p - visibleRows r.s
    match r.table.find? fun x => x.2.bank == bank && x.2.dest == k with
    | some x => .spareInUse x.2.row x.2.isMigrating
    | none =>
      match r.table.find? fun x => x.2.bank == bank && x.2.state == .migrating (.spare k) with
      | some x => .migrationSource x.2.row
      | none => .unassignedSpare

/-! ### The Migration Engine's key and cursor line -/

/-- The entry of the migration in progress, by the context's slot (R52). -/
def State.engineEntry (s : State) : Option (EngineCtx × RemapEntry) :=
  match s.engine with
  | none => none
  | some c => (s.remap.entryAt c.entrySlot).map fun e => (c, e)

/-- The logical line at the cursor of the migration in progress (R54). -/
def State.cursorLine (s : State) : Option Nat :=
  s.engineEntry.map fun x => lineOf x.2.row x.2.bank x.1.cursor

/-- The in-copy line: the line at the cursor while the engine is READING or WRITING (R52). -/
def State.inCopyLine (s : State) : Option Nat :=
  match s.engine with
  | none => none
  | some c => if c.state = .waitSlot then none else s.cursorLine

/-- The cursor that steers accesses to a MIGRATING row (R57). -/
def State.copyCursor (s : State) : Nat :=
  match s.engine with
  | none => 0
  | some c => c.cursor

/-! ### Translation (R8, R9, R57) -/

/-- The target of a read of a logical line, and the fallback target recorded for it (R8, R12, R57). -/
def State.translateRead (s : State) (line : Nat) : PhysAddr × Option PhysAddr :=
  let b := bankOf line
  let r := rowOf line
  let c := columnOf line
  match s.remap.find b r with
  | none => ({ bank := b, row := r, column := c }, none)
  | some x =>
    let dest : PhysAddr := { bank := b, row := spareRowOf s.remap.s x.2.dest, column := c }
    match x.2.state with
    | .active => (dest, none)
    | .migrating src =>
      let source : PhysAddr := { bank := b, row := sourceRow s.remap.s r src, column := c }
      if c < s.copyCursor then (dest, some source) else (source, none)

/-- The target of a write of a logical line, and the second target of a dual write: leg 0 goes to the migration source,
leg 1 to the destination (R8, R57, R134). -/
def State.translateWrite (s : State) (line : Nat) : PhysAddr × Option PhysAddr :=
  let b := bankOf line
  let r := rowOf line
  let c := columnOf line
  match s.remap.find b r with
  | none => ({ bank := b, row := r, column := c }, none)
  | some x =>
    let dest : PhysAddr := { bank := b, row := spareRowOf s.remap.s x.2.dest, column := c }
    match x.2.state with
    | .active => (dest, none)
    | .migrating src =>
      let source : PhysAddr := { bank := b, row := sourceRow s.remap.s r src, column := c }
      if c < s.copyCursor then (source, some dest) else (source, none)

/-- The Remap Table slot of the entry for a line's logical row, as the table stands (R83, R99, R137). -/
def State.slotOfLine (s : State) (line : Nat) : Option Nat :=
  (s.remap.find (bankOf line) (rowOf line)).map (·.1)

/-! ### Media slots (R128) -/

theorem slotNo_lt (i : SlotNo) : i.toNat < 16 := i.isLt

/-- A slot of the Media Operation Table. -/
def State.slot (s : State) (i : SlotNo) : MediaSlot := s.media.slots[i.toNat]'(slotNo_lt i)

/-- A slot replaced. -/
def State.setSlot (s : State) (i : SlotNo) (m : MediaSlot) : State :=
  { s with media := { s.media with slots := s.media.slots.set i.toNat m (slotNo_lt i) } }

/-- A slot's work replaced; the epoch is kept. -/
def State.setWork (s : State) (i : SlotNo) (w : Work) : State := s.setSlot i { epoch := (s.slot i).epoch, work := some w }

/-- A slot becomes FREE; it keeps its epoch (R128). -/
def State.freeSlot (s : State) (i : SlotNo) : State := s.setSlot i { epoch := (s.slot i).epoch, work := none }

/-- The background slot (R128). -/
def background : SlotNo := 15

/-- The upstream slots 0 to 14, lowest first (R128). -/
def upstreamSlots : List SlotNo := [0, 1, 2, 3, 4, 5, 6, 7, 8, 9, 10, 11, 12, 13, 14]

/-- The lowest-numbered FREE upstream slot (R132). -/
def State.freeUpstream (s : State) : Option SlotNo :=
  upstreamSlots.find? fun i => (s.slot i).work.isNone

/-- The number of slots that are not FREE (R128). -/
def State.busySlots (s : State) : Nat := (s.media.slots.toList.filter fun m => m.work.isSome).length

/-- Whether a slot holds work on a line. -/
def MediaSlot.onLine (m : MediaSlot) (line : Nat) : Bool :=
  match m.work with
  | none => false
  | some w => w.line == line

/-- Whether an upstream slot, detached ones included, has an operation in flight on a line (R54, R110). -/
def State.upstreamBusy (s : State) (line : Nat) : Bool := upstreamSlots.any fun i => (s.slot i).onLine line

/-- Whether the background slot's operation on a line counts for the same-line test of an entry (R150, condition 4): for a
READ, the copy of the in-copy line does not count, an orphan does (R58). -/
def State.backgroundBusy (s : State) (line : Nat) (isRead : Bool) : Bool :=
  match (s.slot background).work with
  | none => false
  | some w => w.line == line && !(isRead && w.owner == .copy && w.stage != .orphan)

/-- Whether the table issues operations now: the port is OK and no warm reset drains (R139, R140). -/
def State.mayIssue (s : State) : Bool := !s.media.failed && s.media.drain.isNone

/-- A phase issued from a slot: its work is put in place and its operations go out; a second target makes it a dual write
with leg 1 (R129, R134). Only a write carries a stored line. -/
def State.issuePhase (s : State) (i : SlotNo) (w : Work) (line : Option StoredLine) : State :=
  let s := s.setWork i w
  let epoch := (s.slot i).epoch
  match line with
  | none => s.issueOp (.read i epoch w.target)
  | some l =>
    let s := s.issueOp (.write i epoch false w.target l)
    match w.target2 with
    | none => s
    | some t2 => s.issueOp (.write i epoch true t2 l)

/-! ### Inbound Request Queue (R148 to R155) -/

/-- Whether a request writes: a LINE_WRITE or a LINE_MERGE. -/
def RequestKind.writes : RequestKind → Bool
  | .read => false
  | .write _ => true
  | .merge _ _ => true

/-- Whether a request is a LINE_MERGE with an all-zero mask (R85). -/
def RequestKind.isZeroMerge : RequestKind → Bool
  | .merge _ mask => mask == 0
  | .read => false
  | .write _ => false

/-- Whether an entry has its work in a slot. -/
def IrqState.isIssued : IrqState → Bool
  | .issued _ => true
  | .waiting => false
  | .held => false

/-- The failing answer to a request: READ_FAIL for a LINE_READ, WRITE_RESPONSE FAIL for a write or merge (R142). -/
def failAnswer (tag : Tag) (writes : Bool) (cause : FailCause) : CtlMsg :=
  if writes then .writeResponse tag (some cause) else .readFail tag cause

/-- The entry that holds a tag. -/
def State.entryOfTag (s : State) (tag : Tag) : Option IrqEntry := s.ctl.irq.find? fun e => e.tag == tag

/-- The state of the entry that holds a tag replaced. -/
def State.setEntryState (s : State) (tag : Tag) (st : IrqState) : State :=
  { s with ctl := { s.ctl with irq := s.ctl.irq.map (fun e => if e.tag = tag then { e with state := st } else e) } }

/-- HELD entries return to WAITING (R59), those that `which` selects by their line. -/
def State.releaseHeld (s : State) (which : Nat → Bool) : State :=
  let release (e : IrqEntry) : IrqEntry := if e.state = .held ∧ which e.line then { e with state := .waiting } else e
  { s with ctl := { s.ctl with irq := s.ctl.irq.map release } }

/-- A QUIESCING gate whose queue is empty closes and sets GATE_CLOSED (R155). -/
def State.closeIfEmpty (s : State) : State :=
  if s.ctl.gate = .quiescing ∧ s.ctl.irq = [] then
    { s with ctl := { s.ctl with gate := .closed } }.setFlag .gateClosed
  else s

/-- One pass over the queue in arrival order: an entry that `answers` selects and that has no older unretired entry of
its line is answered and retires (R85, R154). `older` holds the lines of the entries kept so far. Answers what is kept,
and the messages sent. R154 orders the answers of one line alone; that those of different lines are sent in arrival order too, an
entry that an answer lets go among them, is the model's choice (LOG 26). -/
def answerPass (answers : IrqEntry → Option CtlMsg) : List Nat → List IrqEntry → List IrqEntry × List CtlMsg
  | _, [] => ([], [])
  | older, e :: es =>
    match (if older.contains e.line then none else answers e) with
    | some m => let rest := answerPass answers older es; (rest.1, m :: rest.2)
    | none => let rest := answerPass answers (e.line :: older) es; (e :: rest.1, rest.2)

/-- The answers of a pass sent and their entries retired: a credit becomes pending for each (R153). -/
def State.runPass (s : State) (answers : IrqEntry → Option CtlMsg) : State :=
  let r := answerPass answers [] s.ctl.irq
  { s with ctl := { s.ctl with irq := r.1, p := s.ctl.p + r.2.length, out := s.ctl.out ++ r.2 } }

/-- While the media port is FAILED, every entry that is not ISSUED is answered with MEDIA_FAILED as soon as no older
entry of its line is unretired (R154), in the order of LOG 26. -/
def State.answerFailed (s : State) : State :=
  if s.media.failed then
    s.runPass fun e => if e.state.isIssued then none else some (failAnswer e.tag e.kind.writes .mediaFailed)
  else s

/-- An answer sent: the entry retires, its credit becomes pending, entries behind it that only it kept from a MEDIA_FAILED
answer are answered, and a QUIESCING gate closes on an empty queue (R153, R154, R155). -/
def State.retire (s : State) (tag : Tag) (m : CtlMsg) : State :=
  if s.ctl.irq.any (fun e => e.tag == tag) then
    ({ s with ctl :=
        { s.ctl with irq := s.ctl.irq.eraseP (fun e => e.tag == tag), p := s.ctl.p + 1, out := s.ctl.out ++ [m] } }).answerFailed.closeIfEmpty
  else s

/-- Conditions 1, 2 and 5 of R150: the gate is not CLOSED, the port is OK, no warm reset drains. -/
def State.queueMayIssue (s : State) : Bool := s.ctl.gate != .closed && s.mayIssue

/-- Condition 4 of R150: no media operation of any owner is in flight to the entry's line. -/
def State.lineFree (s : State) (e : IrqEntry) : Bool :=
  !s.upstreamBusy e.line && !s.backgroundBusy e.line (!e.kind.writes)

/-- The all-zero merges answered OK at a grant attempt: each WAITING one for which conditions 1 to 5 of R150 hold (R85). -/
def State.answerZeroMerges (s : State) : State :=
  if s.queueMayIssue then
    (s.runPass fun e =>
      if e.state = .waiting ∧ e.kind.isZeroMerge ∧ s.lineFree e then some (.writeResponse e.tag none) else none).closeIfEmpty
  else s

/-- The oldest WAITING entry that takes a slot and for which conditions 3 and 4 of R150 hold; `older` holds the lines of
the entries passed. -/
def State.oldestEligible (s : State) : List Nat → List IrqEntry → Option IrqEntry
  | _, [] => none
  | older, e :: es =>
    if e.state = .waiting ∧ !e.kind.isZeroMerge ∧ !older.contains e.line ∧ s.lineFree e then some e
    else s.oldestEligible (e.line :: older) es

end Sys2Proof.Machine
end

