-- ==== Sys2Proof/Machine/Migration.lean ====
section
/-! DEFINITION. The Sparing Request Queue and the Migration Engine (chapter 4): offers, validation, start, restart, commit,
abort and destination failure, each taken whole. -/

namespace Sys2Proof.Machine

/-! ### Codes of the detail byte (R180) -/

/-- The code of a sparing cause. -/
def SpareCause.code : SpareCause → Byte
  | .budget => 0
  | .ue => 1
  | .command => 2

/-- The code of a refusal reason. -/
def RefusalReason.code : RefusalReason → Byte
  | .policy => 0
  | .tableFull => 1
  | .poolEmpty => 2

/-- The code of an abort reason. -/
def AbortReason.code : AbortReason → Byte
  | .command => 0
  | .warmReset => 1
  | .mediaFailed => 2
  | .mediaTimeout => 3
  | .restartLimit => 4
  | .poolEmpty => 5

/-- The origin of a SPARE_ABORTED record: COMMAND for the reasons COMMAND and WARM_RESET, ENGINE otherwise (R73). -/
def AbortReason.origin : AbortReason → Origin
  | .command => .command
  | .warmReset => .command
  | .mediaFailed => .engine
  | .mediaTimeout => .engine
  | .restartLimit => .engine
  | .poolEmpty => .engine

/-- A record of the engine or the queue: its line is column 0 of the row, and it is not injected (R73). -/
def State.offerRow (s : State) (kind : FaultKind) (origin : Origin) (bank row : Nat) (phys : Option RecordAddr)
    (slot : Option Nat) (detail : Byte) : State :=
  s.offerRecord
    { kind := kind, time := s.now, origin := origin, injected := false, line := some (lineOf row bank 0), phys := phys,
      slot := slot, detail := detail }

/-- The physical address of a record that names a spare: bank and row, no column (R73). -/
def State.spareAddr (s : State) (bank spare : Nat) : RecordAddr :=
  { bank := bank, row := spareRowOf s.remap.s spare, column := none }

/-! ### Validation and start (R49 to R53) -/

/-- What validation of the head request decides (R50). A start names the entry's slot, the ACTIVE entry it re-spares (none:
a new sparing) and the lowest FREE spare. -/
inductive Verdict where
  | stay
  | refuse (reason : RefusalReason)
  | start (slot : Nat) (old : Option RemapEntry) (spare : Nat)
  deriving DecidableEq, Repr

/-- Validation of the head request: the checks of R50 in order; the first that decides ends it. -/
def State.validate (s : State) (r : SpareRequest) : Verdict :=
  if s.media.failed then .stay
  else if r.cause ≠ .command ∧ (s.policy r.row).autospare = false then .refuse .policy
  else
    match s.remap.find r.bank r.row with
    | some x =>
      match (s.remap.pool r.bank).head? with
      | none => .refuse .poolEmpty
      | some k => .start x.1 (some x.2) k
    | none =>
      match s.remap.freeSlot with
      | none => .refuse .tableFull
      | some n =>
        match (s.remap.pool r.bank).head? with
        | none => .refuse .poolEmpty
        | some k => .start n none k

/-- A refusal: SPARE_REFUSED record with the slot of the key's entry if there is one, flag and count (R51, R73). The request
has left the queue. -/
def State.refuseRequest (s : State) (r : SpareRequest) (reason : RefusalReason) : State :=
  ((s.offerRow .spareRefused .engine r.bank r.row none ((s.remap.find r.bank r.row).map (·.1)) reason.code).setFlag
    .spareRefused).count .sparesRefused

/-- A start: the start claim of R28, the context loaded, WAIT_SLOT entered, SPARE_STARTED written (R53). -/
def State.startMigration (s : State) (r : SpareRequest) (slot : Nat) (old : Option RemapEntry) (spare : Nat) : State :=
  let source : Source :=
    match old with
    | none => .original
    | some e => .spare e.dest
  let s :=
    match old with
    | none =>
      s.createEntry slot
        { bank := r.bank, row := r.row, dest := spare, state := .migrating source, origin := .migrated, generation := 0, time := s.now }
    | some e => s.putEntry slot { e with state := .migrating source, dest := spare, time := s.now }
  let s := s.assignSpare r.bank spare
  let ctx : EngineCtx :=
    { state := .waitSlot, entrySlot := slot, source := source, dest := spare, cursor := 0, restarts := 0, cause := r.cause,
      startTime := s.now, poisoned := 0 }
  let s := { s with engine := some ctx }
  s.offerRow .spareStarted .engine r.bank r.row (some (s.spareAddr r.bank spare)) (some slot) r.cause.code

/-- The engine takes head requests while it is IDLE and the queue is not empty: each is refused or started; a FAILED port
leaves the head in place (R49, R51). `fuel` bounds the refusals by the queue's length. -/
def engineTakeFuel : Nat → State → State
  | 0, s => s
  | fuel + 1, s =>
    match s.engine, s.srq with
    | none, r :: rest =>
      match s.validate r with
      | .stay => s
      | .refuse reason => engineTakeFuel fuel (State.refuseRequest { s with srq := rest } r reason)
      | .start slot old spare => State.startMigration { s with srq := rest } r slot old spare
    | _, _ => s

/-- The engine's taking of requests wherever R49 says the condition arises. -/
def State.engineTake (s : State) : State := engineTakeFuel s.srq.length s

/-! ### Offers (R47) -/

/-- What becomes of an offer (R47). -/
inductive OfferResult where
  | dropped
  | duplicate
  | lost
  | appended
  deriving DecidableEq, Repr

/-- Whether a row is the key of the MIGRATING entry or is queued (R47). -/
def State.isDuplicate (s : State) (bank row : Nat) : Bool :=
  (s.remap.table.any fun x => x.2.isMigrating && x.2.bank == bank && x.2.row == row)
    || s.srq.any fun r => r.bank == bank && r.row == row

/-- The test of an offer at the queue (R47). -/
def State.testOffer (s : State) (bank row : Nat) : OfferResult :=
  if visibleRows s.remap.s ≤ row then .dropped
  else if s.isDuplicate bank row then .duplicate
  else if Config.sparingPlaces ≤ s.srq.length then .lost
  else .appended

/-- A request appended at the tail; an IDLE engine takes the head in the same step (R47, R49). -/
def State.appendRequest (s : State) (r : SpareRequest) : State := { s with srq := s.srq ++ [r] }.engineTake

/-- An offer with cause BUDGET or UE: a lost one writes SPARE_REQUEST_LOST and is counted, a duplicate leaves no trace (R47). -/
def State.offerSparing (s : State) (bank row : Nat) (cause : SpareCause) : State :=
  match s.testOffer bank row with
  | .dropped => s
  | .duplicate => s
  | .lost => (s.offerRow .spareRequestLost .engine bank row none none cause.code).count .spareRequestsLost
  | .appended => s.appendRequest { bank := bank, row := row, cause := cause }

/-! ### Orphans, commit, abort, restart (R62 to R68) -/

/-- A copy operation in flight is orphaned: its background slot enters ORPHAN (R68). -/
def State.orphanCopy (s : State) : State :=
  match (s.slot background).work with
  | none => s
  | some w => if w.owner = .copy then s.setWork background { w with stage := .orphan } else s

/-- The commit of the migration in progress: the commit claim of R28, SPARE_DONE record, flag and count, engine IDLE (R62).
The taking of the next request is the caller's. -/
def State.commit (s : State) : State :=
  match s.engineEntry with
  | none => { s with engine := none }
  | some (c, e) =>
    let s :=
      s.putEntry c.entrySlot
        { e with state := .active, dest := c.dest, origin := .migrated, generation := min (e.generation + 1) 255, time := s.now }
    let s :=
      match c.source with
      | .original => s
      | .spare k => s.retireSpare e.bank k
    let s :=
      s.offerRow .spareDone .engine e.bank e.row (some (s.spareAddr e.bank c.dest)) (some c.entrySlot)
        (BitVec.ofNat 8 c.poisoned)
    { (s.setFlag .spareDone).count .sparesDone with engine := none }

/-- The revert claim of R28: a new sparing's entry is removed, a re-spare's returns to ACTIVE on its former spare; the
destination returns to the pool, or is DEAD after RESTART_LIMIT. -/
def State.revert (s : State) (c : EngineCtx) (e : RemapEntry) (reason : AbortReason) : State :=
  let s :=
    match c.source with
    | .original => s.dropSlot c.entrySlot
    | .spare k => s.putEntry c.entrySlot { e with state := .active, dest := k, time := s.now }
  if reason = .restartLimit then s.retireSpare e.bank c.dest else s.returnSpare e.bank c.dest

/-- An abort of the migration in progress, taken whole (R67): orphan, revert, HELD entries released, SPARE_ABORTED, IDLE.
The taking of the next request is the caller's (after a warm reset there is none, R49). -/
def State.abort (s : State) (reason : AbortReason) : State :=
  match s.engineEntry with
  | none => { s with engine := none }
  | some (c, e) =>
    let s := s.orphanCopy
    let s := s.revert c e reason
    let s := s.releaseHeld fun _ => true
    let s :=
      s.offerRow .spareAborted reason.origin e.bank e.row (some (s.spareAddr e.bank c.dest)) (some c.entrySlot) reason.code
    { s with engine := none }

/-- A restart onto the spare `k`: the restart claim of R28, the context set back, HELD entries released, MIGRATION_RESTART
record and count (R64). -/
def State.restart (s : State) (c : EngineCtx) (e : RemapEntry) (k : Nat) : State :=
  let s := s.orphanCopy
  let s := s.retireSpare e.bank c.dest
  let s := s.assignSpare e.bank k
  let s := s.putEntry c.entrySlot { e with dest := k }
  let s :=
    { s with engine := some { c with state := .waitSlot, dest := k, cursor := 0, restarts := c.restarts + 1, poisoned := 0 } }
  let s := s.releaseHeld fun _ => true
  let s :=
    s.offerRow .migrationRestart .engine e.bank e.row (some (s.spareAddr e.bank c.dest)) (some c.entrySlot)
      (BitVec.ofNat 8 (c.restarts + 1))
  s.count .migrationRestarts

/-- A destination failure: RESTART_LIMIT abort, POOL_EMPTY abort or restart, decided in this order (R63). An abort lets the
engine take the next request (R67). -/
def State.destinationFailure (s : State) : State :=
  match s.engineEntry with
  | none => s
  | some (c, e) =>
    if c.restarts = Config.maxRestarts then (s.abort .restartLimit).engineTake
    else
      match (s.remap.pool e.bank).head? with
      | none => (s.abort .poolEmpty).engineTake
      | some k => s.restart c e k

end Sys2Proof.Machine
end

