-- ==== Sys2Proof/Machine/Integrity.lean ====
section
/-! DEFINITION. The read path: the check code and the four outcomes (chapter 5), injection (chapter 8), the Watch List
(chapter 6) and the dispatch of an outcome. -/

namespace Sys2Proof.Machine

/-! ### Check code (R74 to R77) -/

/-- A stored line written with computed check bytes (R74). -/
def sealLine (data : LineData) : StoredLine := { data := data, check := Config.checkBytes data }

/-- The poison marker: zero data, the check bytes of zero data combined with the poison constant (R77). -/
def poisonMarker : StoredLine := { data := 0, check := Config.checkBytes 0 ^^^ Config.poisonConstant }

/-- The real outcome of a read, and the data it delivers (R76). -/
def classify (l : StoredLine) : ReadOutcome × LineData := classifyWith Config.checkBytes Config.poisonConstant l

/-- Whether an outcome leaves sound data: CLEAN or CORRECTED. -/
def ReadOutcome.sound : ReadOutcome → Bool
  | .clean => true
  | .corrected => true
  | .uncorrectable => false
  | .poison => false

/-- The byte mask spread over the bits of a line: the eight bits of byte i are mask bit i (5.6). -/
def spreadMask (mask : ByteMask) : LineData :=
  (List.range 64).foldl (fun acc i => if mask.getLsbD i then acc ||| (0xFF#512 <<< (8 * i)) else acc) 0

/-- The merged data: bytes whose mask bit is 1 from the request, the others from the line (R86). -/
def mergeData (mask : ByteMask) (request line : LineData) : LineData :=
  (request &&& spreadMask mask) ||| (line &&& ~~~spreadMask mask)

/-! ### Injection (R120 to R122) -/

/-- Whether a slot's origin mask holds a read's origin; a fallback read matches under UPSTREAM (R120). -/
def InjectSlot.covers (i : InjectSlot) : Origin → Bool
  | .upstream => i.onUpstream
  | .fallback => i.onUpstream
  | .patrol => i.onPatrol
  | .copy => i.onCopy
  | .command => false
  | .engine => false
  | .link => false

/-- Whether a slot's column is ANY or the read's (R120). -/
def InjectColumn.covers : InjectColumn → Nat → Bool
  | .any, _ => true
  | .column c, k => c == k

/-- Whether a read of a logical line matches a slot (R120); a slot keyed on a row that S makes invisible matches no read, one
issued before S was raised included (R37, R126). -/
def InjectSlot.matchesRead (i : InjectSlot) (reservation : Nat) (origin : Origin) (line : Nat) : Bool :=
  i.armed && i.bank == bankOf line && i.row == rowOf line && rowOk reservation i.row && i.column.covers (columnOf line)
    && i.covers origin

/-- Whether a match fires the slot (R121). -/
def InjectSlot.fires (i : InjectSlot) : Bool :=
  match i.mode with
  | .oneShot => i.n ≤ i.count + 1
  | .periodic => i.n ≤ i.count + 1
  | .continuous => true

/-- The slot after a match (R121). -/
def InjectSlot.afterMatch (i : InjectSlot) : InjectSlot :=
  match i.mode with
  | .oneShot => { i with count := i.count + 1, armed := !i.fires }
  | .periodic => { i with count := if i.fires then 0 else i.count + 1 }
  | .continuous => { i with count := min (i.count + 1) 255 }

/-- The delivered outcome from the real outcome and the outcomes of the slots that fired (R122). -/
def deliver (real : ReadOutcome) (fired : List InjectOutcome) : ReadOutcome :=
  if fired = [] then real
  else if fired.contains .uncorrectable then .uncorrectable
  else
    match real with
    | .uncorrectable => .uncorrectable
    | .clean => .corrected
    | .corrected => .corrected
    | .poison => .corrected

/-- The outcomes of the slots that a read fires (R121). -/
def State.firedBy (s : State) (origin : Origin) (line : Nat) : List InjectOutcome :=
  (s.inject.toList.filter fun i => i.matchesRead s.remap.s origin line && i.fires).map (·.outcome)

/-- Every slot that a read matches counts the match (R121). -/
def State.countMatches (s : State) (origin : Origin) (line : Nat) : State :=
  { s with inject := Vector.ofFn fun k : Fin 4 =>
      if s.inject[k].matchesRead s.remap.s origin line then s.inject[k].afterMatch else s.inject[k] }

/-! ### The Watch List (R93 to R95, R97) -/

/-- The entry of a physical row. -/
def watchFind (es : List WatchEntry) (bank row : Nat) : Option WatchEntry :=
  es.find? fun e => e.bank == bank && e.row == row

/-- The highest budget in a list (R95). -/
def highestBudget (es : List WatchEntry) : Nat := es.foldl (fun m e => max m e.budget) 0

/-- The charge of a row that has an entry: budget down, error count up, time and logical row set (R93). -/
def WatchEntry.charged (e : WatchEntry) (logical : Nat) (now : Millis) : WatchEntry :=
  { e with budget := e.budget - 1, errors := min (e.errors + 1) 255, time := now, logical := logical }

/-- The state with the Watch List replaced. -/
def State.setWatch (s : State) (es : List WatchEntry) : State := { s with watch := { s.watch with entries := es } }

/-- The threshold class of a logical row, looked up now (R91). -/
def State.classThreshold (s : State) (logical : Nat) : Nat := s.watch.thresholds[(s.policy logical).cls]

/-- A charge of a physical row (R93 to R95). The second part is the error count of an exhaustion, if the charge made one. -/
def State.charge (s : State) (bank row logical : Nat) : State × Option Nat :=
  match watchFind s.watch.entries bank row with
  | some e =>
    let e' := e.charged logical s.now
    if e'.budget = 0 then
      (s.setWatch (s.watch.entries.eraseP fun x => x.bank == bank && x.row == row), some e'.errors)
    else (s.setWatch (s.watch.entries.map fun x => if x.bank = bank ∧ x.row = row then x.charged logical s.now else x), none)
  | none =>
    let t := s.classThreshold logical
    let fresh : WatchEntry :=
      { bank := bank, row := row, logical := logical, threshold := t, budget := t - 1, errors := 1, time := s.now }
    if t - 1 = 0 then (s, some 1)
    else if s.watch.entries.length < Config.watchPlaces then (s.setWatch (s.watch.entries ++ [fresh]), none)
    else
      let top := highestBudget s.watch.entries
      if t - 1 ≤ top then
        ((s.setWatch (s.watch.entries.eraseP (fun x => x.budget == top) ++ [fresh])).count .watchEvictions, none)
      else (s.count .watchMisses, none)

/-- A decay expiry over the list: every budget rises by 1, and an entry that reaches its threshold heals (R97). -/
def decayEntries (es : List WatchEntry) : List WatchEntry :=
  (es.map fun e => { e with budget := e.budget + 1 }).filter fun e => e.budget < e.threshold

/-! ### Dispatch (R79 to R83, R99 to R101) -/

/-- The facts of a dispatched outcome (R79). `held` says that the read held a recorded fallback target; `detail` is the
detail byte of the outcome's own record (R83). -/
structure ReadFacts where
  origin : Origin
  line : Nat
  addr : PhysAddr
  real : ReadOutcome
  delivered : ReadOutcome
  held : Bool
  detail : Byte
  deriving DecidableEq, Repr

/-- The injected flag: the delivered outcome differs from the real one (R83). -/
def ReadFacts.injected (f : ReadFacts) : Bool := f.delivered != f.real

/-- The physical address of a read in a record: bank, row and column (R83). -/
def ReadFacts.phys (f : ReadFacts) : RecordAddr :=
  { bank := f.addr.bank, row := f.addr.row, column := some f.addr.column }

/-- The CE kind of an origin (R83). -/
def ceKind : Origin → FaultKind
  | .patrol => .cePatrol
  | .copy => .ceCopy
  | .upstream => .ceUpstream
  | .fallback => .ceUpstream
  | .command => .ceUpstream
  | .engine => .ceUpstream
  | .link => .ceUpstream

/-- The UE kind of an origin (R83). -/
def ueKind : Origin → FaultKind
  | .patrol => .uePatrol
  | .copy => .ueCopy
  | .upstream => .ueUpstream
  | .fallback => .ueUpstream
  | .command => .ueUpstream
  | .engine => .ueUpstream
  | .link => .ueUpstream

/-- The record of a read: an outcome's own record or its BUDGET_EXHAUSTED record (R83, R99). -/
def State.offerRead (s : State) (f : ReadFacts) (kind : FaultKind) (detail : Byte) : State :=
  s.offerRecord
    { kind := kind, time := s.now, origin := f.origin, injected := f.injected, line := some f.line, phys := some f.phys,
      slot := s.slotOfLine f.line, detail := detail }

/-- The dispatch of an exhaustion by the standing of the physical row (R100). -/
def State.dispatchExhaustion (s : State) (bank row : Nat) : State :=
  match s.remap.standing bank row with
  | .originalInUse r => if (s.policy r).autospare then s.offerSparing bank r .budget else s
  | .spareInUse r false => if (s.policy r).autospare then s.offerSparing bank r .budget else s
  | .spareInUse _ true => s.destinationFailure
  | .migrationSource _ => s
  | .originalOutOfUse => s
  | .unassignedSpare => s

/-- A failed read that held a fallback target: a destination failure of the row's migration in progress if it went to the
destination of now (R63); else a UE offer if that spare is the ACTIVE home of the row (R66); else nothing. -/
def State.failedDestinationRead (s : State) (f : ReadFacts) : State :=
  let bank := bankOf f.line
  let row := rowOf f.line
  match s.remap.find bank row with
  | none => s
  | some x =>
    if spareRowOf s.remap.s x.2.dest = f.addr.row then
      if x.2.isMigrating then s.destinationFailure
      else if (s.policy row).ueSpare then s.offerSparing bank row .ue
      else s
    else s

/-- The sparing offer of an UNCORRECTABLE outcome (R82). -/
def State.ueOffer (s : State) (f : ReadFacts) : State :=
  if f.origin = .copy then s
  else if f.origin = .upstream ∧ f.held then s.failedDestinationRead f
  else if (s.policy (rowOf f.line)).ueSpare then s.offerSparing (bankOf f.line) (rowOf f.line) .ue
  else s

/-- The dispatch of a CORRECTED outcome: counter, charge, CE record, then an exhaustion's record and consequence (R79, R101). -/
def State.dispatchCorrected (s : State) (f : ReadFacts) : State :=
  let r := (s.count .ceTotal).charge f.addr.bank f.addr.row (rowOf f.line)
  let s := if (r.1.policy (rowOf f.line)).ceLog then r.1.offerRead f (ceKind f.origin) f.detail else r.1
  match r.2 with
  | none => s
  | some errors => (s.offerRead f .budgetExhausted (BitVec.ofNat 8 errors)).dispatchExhaustion f.addr.bank f.addr.row

/-- The dispatch of a delivered outcome, steps 1 to 4 of R79; step 5, the owner, is the caller's. -/
def State.dispatch (s : State) (f : ReadFacts) : State :=
  match f.delivered with
  | .clean => s
  | .poison => s.count .poisonReads
  | .corrected => s.dispatchCorrected f
  | .uncorrectable => (((s.count .ueTotal).offerRead f (ueKind f.origin) f.detail).setFlag .ueSeen).ueOffer f

end Sys2Proof.Machine
end

