-- ==== Sys2Proof/Machine/PatrolOps.lean ====
section
/-! DEFINITION. The patrol's shared operations (chapter 7): the end of a step, the wrap, the choice of the next line, and the
attempt to issue. -/

namespace Sys2Proof.Machine

/-- The patrol replaced. -/
def State.setPatrol (s : State) (p : Patrol) : State := { s with patrol := p }

/-- The cursor wraps to 0: a sweep is counted and SWEEP_DONE set when a line was read since the last wrap; sweep reads is
then 0 (R107). -/
def State.wrapCursor (s : State) : State :=
  let s := if 1 ≤ s.patrol.sweepReads then (s.count .sweeps).setFlag .sweepDone else s
  s.setPatrol { s.patrol with cursor := 0, sweepReads := 0 }

/-- The cursor moves to a line; the move itself tests nothing (R108). -/
def State.moveCursor (s : State) (line : Nat) : State := s.setPatrol { s.patrol with cursor := line }

/-- The cursor advances by one line at the end of a step, wrapping at the visible capacity of now (R107). -/
def State.advanceCursor (s : State) : State :=
  if visibleCapacity s.remap.s ≤ s.patrol.cursor + 1 then s.wrapCursor else s.moveCursor (s.patrol.cursor + 1)

/-- The first stripe above `row` that another region governs, or the visible row count where the default policy governs. The
stripes from `row` up to it share one policy, so skipping them one by one (R108, step 2) ends here (LOG 20). -/
def State.regionEnd (s : State) (row : Nat) : Nat :=
  match s.regions.toList.find? fun g => row < g.limit with
  | some g => g.limit
  | none => visibleRows s.remap.s

/-- Whether the row of a line is MIGRATING (R108, step 3). -/
def State.lineMigrating (s : State) (line : Nat) : Bool :=
  match s.remap.find (bankOf line) (rowOf line) with
  | none => false
  | some x => x.2.isMigrating

/-- The choice of the line, by the tests of R108 in order; the second part says whether a line was chosen, and false is a
double wrap. `wrapped` says that the search has wrapped; `fuel` bounds its moves. -/
def chooseFuel : Nat → Bool → State → State × Bool
  | 0, _, s => (s.wrapCursor, false)
  | fuel + 1, wrapped, s =>
    let line := s.patrol.cursor
    if visibleCapacity s.remap.s ≤ line then
      if wrapped then (s.wrapCursor, false) else chooseFuel fuel true s.wrapCursor
    else if (s.policy (rowOf line)).scrub = false then
      chooseFuel fuel wrapped (s.moveCursor (lineOf (s.regionEnd (rowOf line)) 0 0))
    else if s.lineMigrating line then chooseFuel fuel wrapped (s.moveCursor (line + (128 - columnOf line)))
    else (s, true)

/-- The choice of R108. A pass from a cursor to the top makes at most nine moves past regions and one past each MIGRATING
row, and there are at most two passes and two wraps. -/
def State.choose (s : State) : State × Bool := chooseFuel (2 * s.remap.table.length + 32) false s

/-- A copy is ready: the engine is in WAIT_SLOT and no upstream operation is in flight on its cursor line (R54, R110). -/
def State.copyReady (s : State) : Bool :=
  match s.engine, s.cursorLine with
  | some c, some line => c.state == .waitSlot && !s.upstreamBusy line
  | _, _ => false

/-- Whether the chosen line may be read now: the background slot is FREE, no copy is ready, no upstream operation is in
flight on the line and no IRQ entry for it is unretired (R110). -/
def State.patrolReady (s : State) : Bool :=
  (s.slot background).work.isNone && !s.copyReady && !s.upstreamBusy s.patrol.cursor
    && s.ctl.irq.all fun e => e.line != s.patrol.cursor

/-- Sweep reads raised by a read that is issued (R107, R110). At the top of its range the manual gives no next value: a free value
is drawn (LOG 11). -/
def State.raiseSweepReads (s : State) : State :=
  if s.patrol.sweepReads < Config.maxSweepReads then s.setPatrol { s.patrol with sweepReads := s.patrol.sweepReads + 1 }
  else
    { s with
      patrol := { s.patrol with sweepReads := (Config.sweepReadsBeyond s.freeCount).val }
      freeCount := s.freeCount + 1 }

/-- The patrol read issued (R110): the cursor line translated now; READING, due no, the mark cleared, sweep reads raised, the
timer restarted. -/
def State.issuePatrolRead (s : State) : State :=
  let w : Work :=
    { stage := .issued, owner := .patrol, line := s.patrol.cursor, phase := .read, target := (s.translateRead s.patrol.cursor).1,
      target2 := none, leg0 := true, leg1 := false, fallback := none, start := s.us }
  let s := (s.issuePhase background w none).raiseSweepReads
  s.setPatrol { s.patrol with state := .reading, due := false, cancel := false, timer := some (s.us + s.patrol.interval) }

/-- An attempt of the patrol: in WAITING with due set, the line is chosen afresh; a double wrap ends the step's due and
restarts the timer; a chosen line is read if it may be (R108, R110). -/
def State.patrolAttempt (s : State) : State :=
  if s.patrol.state = .waiting ∧ s.patrol.due ∧ s.mayIssue then
    let r := s.choose
    if r.2 then
      if r.1.patrolReady then r.1.issuePatrolRead else r.1
    else r.1.setPatrol { r.1.patrol with due := false, timer := some (r.1.us + r.1.patrol.interval) }
  else s

/-- The end of a step (R107): the cursor advances; STOPPING enters STOPPED, READING and WRITING_BACK enter WAITING with due
as the timer has left it (R109). A patrol already STOPPED by a FAILED port has no step to end (R115). -/
def State.endPatrolStep (s : State) : State :=
  match s.patrol.state with
  | .reading => let s := s.advanceCursor; s.setPatrol { s.patrol with state := .waiting }
  | .writingBack => let s := s.advanceCursor; s.setPatrol { s.patrol with state := .waiting }
  | .stopping _ => let s := s.advanceCursor; s.setPatrol { s.patrol with state := .stopped }
  | .waiting => s
  | .stopped => s

/-- The patrol enters STOPPED: due no, the mark cleared, the timer off; the cursor stays (R106, R115). -/
def State.stopPatrol (s : State) : State :=
  s.setPatrol { s.patrol with state := .stopped, due := false, cancel := false, timer := none }

end Sys2Proof.Machine
end

