-- ==== Sys2Proof/Machine/Formats.lean ====
section
/-! DEFINITION. Every byte layout a bus partner sees (chapter 12): status bytes, readouts, fault record, message headers. -/

namespace Sys2Proof.Machine

/-- One byte of a number. -/
def byteOf (n : Nat) : Byte := BitVec.ofNat 8 n

/-- The byte of an on/off attribute: 0 off, 1 on (R178). -/
def boolByte (b : Bool) : Byte := if b then 1 else 0

/-! ### Status (R173, R179) -/

/-- The code of the gate in STATUS0. -/
def Gate.code : Gate → Nat
  | .closed => 0
  | .opened => 1
  | .quiescing => 2

/-- The code of the Migration Engine's state in STATUS0. -/
def engineCode : Option EngineCtx → Nat
  | none => 0
  | some c =>
    match c.state with
    | .waitSlot => 1
    | .reading => 2
    | .writing => 3

/-- The code of the patrol's state in STATUS0. -/
def PatrolState.code : PatrolState → Nat
  | .stopped => 0
  | .waiting => 1
  | .reading => 2
  | .writingBack => 3
  | .stopping _ => 4

/-- STATUS0: gate, media port, engine and patrol states, live (R173). -/
def State.status0 (s : State) : Byte :=
  byteOf (s.ctl.gate.code + 4 * (if s.media.failed then 1 else 0) + 8 * engineCode s.engine + 32 * s.patrol.state.code)

/-- STATUS1: the number of records in the fault log, live (R173). -/
def State.status1 (s : State) : Byte := byteOf s.log.records.length

/-- The code of a migration source (R179). -/
def Source.code : Source → Byte
  | .original => 0x80
  | .spare k => byteOf k

/-- DATA 10 to 20 of the status readout: the engine's context, zero while it is IDLE (R179). -/
def contextBytes : Option EngineCtx → List Byte
  | none => List.replicate 11 0
  | some c =>
    [byteOf c.entrySlot, c.source.code, byteOf c.dest, byteOf c.cursor, byteOf c.restarts, c.cause.code, byteOf c.poisoned]
      ++ leBytes 4 c.startTime.toNat

/-- The armed bits of the injection slots: bit i for slot i (R179). -/
def armedByte (slots : Vector InjectSlot 4) : Byte :=
  byteOf ((if slots[0].armed then 1 else 0) + (if slots[1].armed then 2 else 0) + (if slots[2].armed then 4 else 0)
    + (if slots[3].armed then 8 else 0))

/-- The number of HELD entries (R149). -/
def State.heldCount (s : State) : Nat := (s.ctl.irq.filter fun e => e.state = .held).length

/-- The status readout in DATA (R179). -/
def State.statusBytes (s : State) : List Byte :=
  [s.status0, byteOf s.ctl.irq.length, byteOf s.ctl.g, byteOf s.ctl.p, byteOf s.heldCount, byteOf s.media.timeouts,
    byteOf s.busySlots, byteOf s.remap.s, byteOf s.srq.length, byteOf s.log.records.length]
  ++ contextBytes s.engine ++ leBytes 4 s.patrol.cursor ++ leBytes 2 s.patrol.interval ++ leBytes 4 s.patrol.sweepReads
  ++ [armedByte s.inject]

/-- The status readout in DATA_X: the match counters, the millisecond count, and a zero (R179). -/
def State.statusXBytes (s : State) : List Byte :=
  (s.inject.toList.map fun i => byteOf i.count) ++ leBytes 4 s.now.toNat ++ [0]

/-! ### Remap entry, pool, watch entry, region, counters (R179) -/

/-- The code of an entry's origin. -/
def EntryOrigin.code : EntryOrigin → Byte
  | .migrated => 0
  | .installed => 1

/-- Bytes 2 to 13 of the remap entry readout: zero in bytes 3 to 13 for a FREE slot. -/
def entryBytes : Option RemapEntry → List Byte
  | none => List.replicate 12 0
  | some e =>
    [if e.isMigrating then 1 else 2, byteOf e.bank] ++ leBytes 2 e.row
      ++ [byteOf e.dest,
        match e.state with
        | .active => 0xFF
        | .migrating src => src.code,
        e.origin.code, byteOf e.generation] ++ leBytes 4 e.time.toNat

/-- The remap entry readout of a slot (R43, R179). -/
def State.remapBytes (s : State) (slot : Nat) : List Byte := leBytes 2 slot ++ entryBytes (s.remap.entryAt slot)

/-- The code of a spare state. -/
def SpareState.code : SpareState → Nat
  | .free => 0
  | .assigned => 1
  | .dead => 2

/-- The two bits of a spare in the pool readout; indices at or above S read 0 (R179). -/
def Remap.spareBits (r : Remap) (bank k : Nat) : Nat := if k < r.s then (r.spareState bank k).code else 0

/-- The pool readout of a bank (R45, R179). -/
def State.poolBytes (s : State) (bank : Nat) : List Byte :=
  let r := s.remap
  [byteOf bank, byteOf r.s, byteOf r.lowWater, byteOf (r.countSpares bank .free), byteOf (r.countSpares bank .assigned),
    byteOf (r.countSpares bank .dead),
    match (r.pool bank).head? with
    | none => 0xFF
    | some k => byteOf k]
  ++ (List.range 16).map fun j =>
    byteOf (r.spareBits bank (4 * j) + 4 * r.spareBits bank (4 * j + 1) + 16 * r.spareBits bank (4 * j + 2)
      + 64 * r.spareBits bank (4 * j + 3))

/-- The code of a standing (R179). -/
def Standing.code : Standing → Byte
  | .originalInUse _ => 0
  | .originalOutOfUse => 1
  | .migrationSource _ => 2
  | .spareInUse _ _ => 3
  | .unassignedSpare => 4

/-- The watch entry readout (R103, R179). -/
def State.watchBytes (s : State) (index : Nat) (e : WatchEntry) : List Byte :=
  [byteOf index, byteOf s.watch.entries.length, byteOf e.bank] ++ leBytes 2 e.row ++ leBytes 2 e.logical
    ++ [byteOf e.threshold, byteOf e.budget, byteOf e.errors] ++ leBytes 4 e.time.toNat
    ++ [(s.remap.standing e.bank e.row).code] ++ s.watch.thresholds.toList.map byteOf ++ leBytes 2 s.watch.period

/-- The code of UE_RESPONSE. -/
def UeResponse.code : UeResponse → Byte
  | .poison => 0
  | .fail => 1

/-- The limit below region i: limit(i − 1), taken as 0 for region 0 (R16, R22). -/
def State.lowerBound (s : State) (i : Nat) : Nat :=
  match i with
  | 0 => 0
  | j + 1 => ((s.regions.toList[j]?).map (·.limit)).getD 0

/-- The limit above region i: limit(i + 1), taken as 32,768 for region 7 (R22). -/
def State.upperBound (s : State) (i : Nat) : Nat := ((s.regions.toList[i + 1]?).map (·.limit)).getD 32768

/-- The region readout (R23, R179). -/
def State.regionBytes (s : State) (i : Nat) (g : Region) : List Byte :=
  let lower := s.lowerBound i
  let visible := visibleRows s.remap.s
  [byteOf i] ++ leBytes 2 lower ++ leBytes 2 g.limit
    ++ [boolByte g.policy.scrub, boolByte g.policy.autospare, boolByte g.policy.ueSpare, g.policy.ueResponse.code,
      boolByte g.policy.ceLog, byteOf g.policy.cls.val]
    ++ leBytes 2 (min g.limit visible - min lower visible)

/-- The counters readout of a group (R167, R179). -/
def State.counterBytes (s : State) (group : Nat) : List Byte :=
  [byteOf group] ++ leBytes 4 s.now.toNat ++ (s.groupValues group).flatMap (leBytes 2)

/-! ### Fault record (R180) -/

/-- The code of a kind. -/
def FaultKind.code : FaultKind → Nat
  | .ceUpstream => 0x01
  | .cePatrol => 0x02
  | .ceCopy => 0x03
  | .ueUpstream => 0x04
  | .uePatrol => 0x05
  | .ueCopy => 0x06
  | .budgetExhausted => 0x07
  | .spareStarted => 0x08
  | .spareDone => 0x09
  | .spareAborted => 0x0A
  | .spareRefused => 0x0B
  | .spareRequestLost => 0x0C
  | .migrationRestart => 0x0D
  | .mediaTimeout => 0x0E
  | .mediaFailed => 0x0F
  | .protocol => 0x10
  | .range => 0x11

/-- The code of a severity. -/
def Severity.code : Severity → Nat
  | .info => 0
  | .corrected => 1
  | .degraded => 2
  | .critical => 3

/-- The code of an origin. -/
def Origin.code : Origin → Nat
  | .upstream => 0
  | .patrol => 1
  | .copy => 2
  | .fallback => 3
  | .command => 4
  | .engine => 5
  | .link => 6

/-- Whether a record carries a physical column. -/
def Offer.hasColumn (o : Offer) : Bool :=
  match o.phys with
  | none => false
  | some a => a.column.isSome

/-- A fault record as READ_FAULT places it: 16 bytes; absent fields read 0 and their presence bits are clear. -/
def FaultRecord.bytes (r : FaultRecord) : List Byte :=
  let o := r.body
  leBytes 2 r.seq.toNat
    ++ [byteOf (o.kind.code + 32 * o.kind.severity.code + 128 * (if o.injected then 1 else 0)),
      byteOf (o.origin.code + 8 * (if o.line.isSome then 1 else 0) + 16 * (if o.phys.isSome then 1 else 0)
        + 32 * (if o.hasColumn then 1 else 0) + 64 * (if o.slot.isSome then 1 else 0))]
    ++ leBytes 4 o.time.toNat ++ leBytes 4 (o.line.getD 0)
    ++ leBytes 2 ((o.phys.map fun a => a.row % 32768).getD 0) ++ [byteOf (o.slot.getD 0), o.detail]

/-! ### Outbound messages (R181) -/

/-- The code of a cause. -/
def FailCause.code : FailCause → Byte
  | .notOpen => 1
  | .range => 2
  | .uncorrectable => 3
  | .mediaTimeout => 4
  | .mediaFailed => 5
  | .reset => 6
  | .mergePoison => 7

/-- The code of a read status. -/
def ReadStatus.code : ReadStatus → Byte
  | .clean => 0
  | .corrected => 1
  | .poison => 2

/-- The bytes of a message to the controller: type, header and payload. -/
def CtlMsg.bytes : CtlMsg → List Byte
  | .readResponse tag status data => [0x81, tag.setWidth 8, status.code, 0] ++ leBytes 64 data.toNat
  | .readFail tag cause => [0x82, tag.setWidth 8, 0, cause.code]
  | .writeResponse tag none => [0x83, tag.setWidth 8, 0, 0]
  | .writeResponse tag (some cause) => [0x83, tag.setWidth 8, 1, cause.code]
  | .credit count => [0x84, byteOf count]

/-! ### The register window (R173, R174) -/

/-- The code of a result (R175). -/
def ResultCode.code : ResultCode → Byte
  | .ok => 0x00
  | .queued => 0x01
  | .badParam => 0x02
  | .wrongState => 0x03
  | .full => 0x04
  | .empty => 0x05
  | .notFound => 0x06
  | .duplicate => 0x07
  | .badOrder => 0x08

/-- RESULT: BUSY while a command is in progress, else the result of the last command (R173, R175). -/
def State.resultByte (s : State) : Byte := if s.mgmt.running.isSome then 0xFF else s.mgmt.result.code

/-- The byte a register of the window reads as (R173, R174). -/
def State.readRegister (s : State) (address : Nat) : Byte :=
  match address with
  | 0x00 => Config.vendor
  | 0x01 => Config.part
  | 0x02 => Config.revision
  | 0x03 => s.status0
  | 0x04 => s.status1
  | 0x05 => s.flagBits.setWidth 8
  | 0x06 => (s.flagBits >>> 8).setWidth 8
  | 0x07 => s.mask.setWidth 8
  | 0x08 => (s.mask >>> 8).setWidth 8
  | 0x15 => s.mgmt.command
  | 0x16 => s.resultByte
  | a =>
    if a < 0x15 then s.mgmt.param.toList.getD (a - 0x09) 0
    else if a < 0x20 then s.mgmt.dataX.toList.getD (a - 0x17) 0
    else s.mgmt.data.toList.getD (a - 0x20) 0

end Sys2Proof.Machine
end

