-- ==== Sys2Proof/Machine/Window.lean ====
section
/-! DEFINITION. The command mailbox (R175, R176): starting, taking and completing a command; writes to the window (R173). -/

namespace Sys2Proof.Machine

/-- The management port replaced. -/
def State.setMgmt (s : State) (m : Mgmt) : State := { s with mgmt := m }

/-- Bytes put into DATA from byte 0; bytes beyond their end keep their former contents (R179). -/
def State.putData (s : State) (bytes : List Byte) : State :=
  s.setMgmt { s.mgmt with data := Vector.ofFn fun i : Fin 32 => bytes.getD i.val s.mgmt.data[i] }

/-- Bytes put into DATA_X. -/
def State.putDataX (s : State) (bytes : List Byte) : State :=
  s.setMgmt { s.mgmt with dataX := Vector.ofFn fun i : Fin 9 => bytes.getD i.val s.mgmt.dataX[i] }

/-- The command in progress completes with a result (R175). -/
def State.complete (s : State) (r : ResultCode) : State := s.setMgmt { s.mgmt with result := r, running := none }

/-- A command completes with OK and its readout in DATA (R175, R178). -/
def State.completeWith (s : State) (bytes : List Byte) : State := (s.putData bytes).complete .ok

/-- The start of a command: the code is stored, PARAM latched, RESULT becomes BUSY (R175). -/
def State.startCommand (s : State) (code : Byte) : State :=
  s.setMgmt { s.mgmt with command := code, running := some { code := code, params := s.mgmt.param, taken := false } }

/-- A COMMAND write while RESULT is BUSY: ignored, CMD_OVERRUN set (R176). -/
def State.overrun (s : State) : State := s.setFlag .cmdOverrun

/-- A byte written to COMMAND: ignored while a command is BUSY; a code that names no command completes at once with
BAD_PARAM; any other starts its command (R175, R176; LOG 15). -/
def State.writeCommand (s : State) (code : Byte) : State :=
  if s.mgmt.running.isSome then s.overrun
  else if namesCommand code then s.startCommand code
  else (s.startCommand code).complete .badParam

/-- A byte written to a register of the window; a read-only register is unchanged (R173, R174). -/
def State.writeRegister (s : State) (address : Nat) (value : Byte) : State :=
  if address = 0x05 then s.clearFlags .flags0 value
  else if address = 0x06 then s.clearFlags .flags1 value
  else if 0x09 ≤ address ∧ address ≤ 0x14 then
    s.setMgmt { s.mgmt with param := s.mgmt.param.setIfInBounds (address - 0x09) value }
  else if address = 0x15 then s.writeCommand value
  else s

/-- A command row (LOG 4). With no command in progress, the row is the COMMAND write of its code and the taking; with its
own code started and not yet taken, it is the taking; with any other command BUSY, it is a COMMAND write that is ignored.
`take` is the owning block's taking, on the latched parameters. -/
def State.runCommand (s : State) (code : Byte) (take : Params → State → State) : State :=
  match s.mgmt.running with
  | none => take s.mgmt.param (s.startCommand code)
  | some r => if r.code = code ∧ r.taken = false then take r.params s else s.overrun

/-- A row of PATROL_CONTROL (LOG 16): the command started or in progress is PATROL_CONTROL, and PARAM[0] names the
operation. An operation that is unknown completes with BAD_PARAM (R116); a known one that is another row's is left for that row. -/
def State.runPatrol (s : State) (operation : Byte) (take : Params → State → State) : State :=
  s.runCommand codePatrolControl fun p s =>
    if byteOf (paramByte p 0) = operation then take p s
    else if namesPatrolOperation (byteOf (paramByte p 0)) then s
    else s.complete .badParam

end Sys2Proof.Machine
end

