-- ==== Sys2Proof/Machine/Media.lean ====
section
/-! DEFINITION. The rows of the media port (chapter 9): READ_COMPLETION, WRITE_COMPLETION, MEDIA_TIMEOUT, DRAIN_EXPIRY, and what
their owners do with them. -/

namespace Sys2Proof.Machine

/-! ### Late completions and the drain (R130, R140) -/

/-- The warm reset's effect at the table is done: the record is dropped and WARM_RESET reports OK (R140, R177). -/
def State.finishDrain (s : State) : State := { s with media := { s.media with drain := none } }.complete .ok

/-- A discarded completion: LATE_COMPLETIONS is counted; while a warm reset drains, the leg it answers leaves the record, and
the last one ends the drain (R130, R140). -/
def State.lateCompletion (s : State) (slot : SlotNo) (epoch : Epoch) (leg : Bool) : State :=
  let s := s.count .lateCompletions
  match s.media.drain with
  | none => s
  | some d =>
    let legs := d.legs.erase { slot := slot, epoch := epoch, leg := leg }
    if legs = [] then s.finishDrain else { s with media := { s.media with drain := some { d with legs := legs } } }

/-- An accepted completion returns the count of consecutive timeouts to 0 (R138). -/
def State.clearTimeouts (s : State) : State := { s with media := { s.media with timeouts := 0 } }

/-! ### Answers (R84, R86, R152) -/

/-- The answer to a LINE_READ from its final delivered outcome, under UE_RESPONSE (R84). -/
def readAnswer (tag : Tag) (policy : UeResponse) (delivered : ReadOutcome) (data : LineData) : CtlMsg :=
  match delivered with
  | .clean => .readResponse tag .clean data
  | .corrected => .readResponse tag .corrected data
  | .uncorrectable =>
    match policy with
    | .poison => .readResponse tag .poison data
    | .fail => .readFail tag .uncorrectable
  | .poison =>
    match policy with
    | .poison => .readResponse tag .poison data
    | .fail => .readFail tag .uncorrectable

/-- An upstream slot's work ends with an answer: the slot becomes FREE and the entry retires in one step (R152, R153). -/
def State.endWithAnswer (s : State) (slot : SlotNo) (tag : Tag) (m : CtlMsg) : State := (s.freeSlot slot).retire tag m

/-- The write phase of an upstream slot issued: both targets of a dual write, the line sealed now (R74, R129, R134). -/
def State.issueWrite (s : State) (slot : SlotNo) (w : Work) (data : LineData) : State :=
  let t := s.translateWrite w.line
  s.issuePhase slot
    { w with phase := .write, target := t.1, target2 := t.2, leg0 := true, leg1 := t.2.isSome, start := s.us }
    (some (sealLine data))

/-! ### Owners of a read completion -/

/-- The owner of an upstream read that has been dispatched (R65, R84, R86, R139): a fallback read, the answer of a LINE_READ,
or the merge. -/
def State.ownUpstreamRead (s : State) (slot : SlotNo) (w : Work) (e : IrqEntry) (real delivered : ReadOutcome) (data : LineData) :
    State :=
  match (if delivered = .uncorrectable then w.fallback else none) with
  | some target =>
    if s.media.failed then s.endWithAnswer slot e.tag (failAnswer e.tag e.kind.writes .mediaFailed)
    else
      s.issuePhase slot
        { w with stage := .issuedSecond, phase := .fallbackRead, target := target, target2 := none, leg0 := true, leg1 := false,
                 fallback := none, start := s.us } none
  | none =>
    match e.kind with
    | .read => s.endWithAnswer slot e.tag (readAnswer e.tag (s.policy (rowOf w.line)).ueResponse delivered data)
    | .merge request mask =>
      if real.sound && delivered.sound then
        if s.media.failed then s.endWithAnswer slot e.tag (.writeResponse e.tag (some .mediaFailed))
        else s.issueWrite slot { w with stage := .issuedSecond } (mergeData mask request data)
      else s.endWithAnswer slot e.tag (.writeResponse e.tag (some .mergePoison))
    | .write _ => s.freeSlot slot

/-- An accepted read completion of an upstream slot: dispatched with the request's tag, that of a detached slot included (R79, R83;
LOG 25); then the owner, or the slot of a detached read frees (R141). -/
def State.upstreamRead (s : State) (slot : SlotNo) (w : Work) (tag : Tag) (attached : Bool) (origin : Origin)
    (real delivered : ReadOutcome) (data : LineData) : State :=
  let s := s.dispatch
    { origin := origin, line := w.line, addr := w.target, real := real, delivered := delivered, held := w.fallback.isSome,
      detail := tag.setWidth 8 }
  match (if attached then s.entryOfTag tag else none) with
  | none => s.freeSlot slot
  | some e => s.ownUpstreamRead slot w e real delivered data

/-- The restart count of the migration in progress, the detail byte of a COPY record (R83). -/
def State.restartByte (s : State) : Byte :=
  match s.engine with
  | none => 0
  | some c => BitVec.ofNat 8 c.restarts

/-- An accepted copy read: dispatched; then the copy write of the real data, or of a poison marker, is issued to the
destination (R55). A read whose migration its own dispatch has ended is followed by no copy write (R68). -/
def State.copyRead (s : State) (w : Work) (real delivered : ReadOutcome) (data : LineData) : State :=
  let s := s.dispatch
    { origin := .copy, line := w.line, addr := w.target, real := real, delivered := delivered, held := false,
      detail := s.restartByte }
  match s.engine with
  | none => s.freeSlot background
  | some c =>
    if c.state = .reading then
      let s := { s with engine := some { c with state := .writing, poisoned := if real.sound then c.poisoned else c.poisoned + 1 } }
      s.issuePhase background
        { w with stage := .issuedSecond, phase := .write, target := { w.target with row := spareRowOf s.remap.s c.dest },
                 target2 := none, leg0 := true, leg1 := false, start := s.us }
        (some (if real.sound then sealLine data else poisonMarker))
    else s.freeSlot background

/-- The background slot frees at the end of a patrol step; a step that became due meanwhile is attempted at once (R107, R109). -/
def State.finishPatrolStep (s : State) : State := ((s.freeSlot background).endPatrolStep).patrolAttempt

/-- The patrol's state once its write-back is issued (R112). -/
def PatrolState.toWriteBack : PatrolState → PatrolState
  | .stopping _ => .stopping .writeBack
  | .reading => .writingBack
  | .writingBack => .writingBack
  | .waiting => .waiting
  | .stopped => .stopped

/-- The write-back that a real outcome calls for (R111, R112). -/
def writeBackLine (real : ReadOutcome) (data : LineData) : Option StoredLine :=
  match real with
  | .clean => none
  | .corrected => some (sealLine data)
  | .uncorrectable => some poisonMarker
  | .poison => none

/-- The owner of a patrol read: the write-back decided by the real outcome and the cancel mark (R111). -/
def State.ownPatrolRead (s : State) (w : Work) (real : ReadOutcome) (data : LineData) : State :=
  match writeBackLine real data with
  | none => s.finishPatrolStep
  | some line =>
    if s.patrol.cancel then (s.count .scrubCancelled).finishPatrolStep
    else
      let s := s.issuePhase background
        { w with stage := .issuedSecond, phase := .write, target2 := none, leg0 := true, leg1 := false, start := s.us } (some line)
      (s.count .scrubWritebacks).setPatrol { s.patrol with state := s.patrol.state.toWriteBack }

/-- An accepted patrol read: dispatched; then the patrol's decision in READING or STOPPING; a patrol that a FAILED port has
stopped makes no write-back (R111, R115). -/
def State.patrolRead (s : State) (w : Work) (real delivered : ReadOutcome) (data : LineData) : State :=
  let s := s.dispatch
    { origin := .patrol, line := w.line, addr := w.target, real := real, delivered := delivered, held := false, detail := 0 }
  match s.patrol.state with
  | .reading => s.ownPatrolRead w real data
  | .stopping _ => s.ownPatrolRead w real data
  | .writingBack => s.freeSlot background
  | .waiting => s.freeSlot background
  | .stopped => s.freeSlot background

/-- The origin of a slot's phase (R79, R137). -/
def Work.origin (w : Work) : Origin :=
  match w.owner with
  | .copy => .copy
  | .patrol => .patrol
  | .upstream _ _ => if w.phase = .fallbackRead then .fallback else .upstream

/-- An accepted read completion: an orphan's is discarded and frees its slot; any other is classified, matched against the
injection slots, dispatched and handed to its owner (R120, R130). -/
def State.acceptRead (s : State) (slot : SlotNo) (w : Work) (line : StoredLine) : State :=
  let s := s.clearTimeouts
  if w.stage = .orphan then s.freeSlot slot
  else
    let c := classify line
    let delivered := deliver c.1 (s.firedBy w.origin w.line)
    let s := s.countMatches w.origin w.line
    match w.owner with
    | .upstream tag attached => s.upstreamRead slot w tag attached w.origin c.1 delivered c.2
    | .copy => s.copyRead w c.1 delivered c.2
    | .patrol => s.patrolRead w c.1 delivered c.2

/-! ### Owners of a write completion -/

/-- The completion of a copy write: the slot is released, the cursor advances, HELD entries of the line are released; at 128
the migration commits, else the next line waits (R56). -/
def State.copyWritten (s : State) : State :=
  let s := s.freeSlot background
  match s.engineEntry with
  | none => s
  | some (c, e) =>
    if c.state = .writing then
      let s := { s with engine := some { c with state := .waitSlot, cursor := c.cursor + 1 } }
      let s := s.releaseHeld fun line => line == lineOf e.row e.bank c.cursor
      if c.cursor + 1 = Config.linesPerRow then s.commit.engineTake else s
    else s

/-- The completion of a write-back: the step ends (R112). -/
def State.patrolWritten (s : State) : State :=
  match s.patrol.state with
  | .writingBack => s.finishPatrolStep
  | .stopping _ => s.finishPatrolStep
  | .reading => s.freeSlot background
  | .waiting => s.freeSlot background
  | .stopped => s.freeSlot background

/-- A write phase ends: the owner is handed the result (R130). -/
def State.writeEnded (s : State) (slot : SlotNo) (w : Work) : State :=
  if w.stage = .orphan then s.freeSlot slot
  else
    match w.owner with
    | .upstream tag attached => if attached then s.endWithAnswer slot tag (.writeResponse tag none) else s.freeSlot slot
    | .copy => s.copyWritten
    | .patrol => s.patrolWritten

/-- An accepted write completion marks its leg complete; the phase ends when no leg is outstanding (R130, R134). -/
def State.acceptWrite (s : State) (slot : SlotNo) (w : Work) (leg : Bool) : State :=
  let s := s.clearTimeouts
  let w := if leg then { w with leg1 := false } else { w with leg0 := false }
  if w.leg0 || w.leg1 then s.setWork slot w else s.writeEnded slot w

/-! ### Timeout (R135 to R138) -/

/-- The MEDIA_TIMEOUT record of a phase (R137). -/
def State.offerTimeout (s : State) (slot : SlotNo) (w : Work) : State :=
  let a := if w.leg0 then w.target else w.target2.getD w.target
  s.offerRecord
    { kind := .mediaTimeout, time := s.now, origin := w.origin, injected := false, line := some w.line,
      phys := some { bank := a.bank, row := a.row, column := some a.column }, slot := s.slotOfLine w.line,
      detail := slot.setWidth 8 }

/-- The owner of a timed-out phase is told (R136). The engine's taking of a next request and the patrol's next attempt follow
at the end of the step (LOG 17). -/
def State.tellTimeout (s : State) (w : Work) : State :=
  if w.stage = .orphan then s
  else
    match w.owner with
    | .upstream tag attached =>
      match (if attached then s.entryOfTag tag else none) with
      | none => s
      | some e => s.retire tag (failAnswer tag e.kind.writes .mediaTimeout)
    | .copy => s.abort .mediaTimeout
    | .patrol => s.endPatrolStep

/-- The entry into FAILED, its steps in order (R138): record, flag, migration abort, patrol stop, controller port. -/
def State.enterFailed (s : State) (slot : SlotNo) : State :=
  let s := { s with media := { s.media with failed := true } }
  let s := s.offerRecord
    { kind := .mediaFailed, time := s.now, origin := .engine, injected := false, line := none, phys := none, slot := none,
      detail := slot.setWidth 8 }
  let s := s.setFlag .mediaFailed
  let s := if s.engine.isSome then s.abort .mediaFailed else s
  (s.stopPatrol.answerFailed).closeIfEmpty

/-- What the owner does after the timeout's own effects: an engine whose copy timed out takes the next request, a patrol
whose step timed out attempts a step already due (R67, R109; LOG 17). -/
def State.afterTimeout (s : State) (w : Work) : State :=
  if w.stage = .orphan then s
  else
    match w.owner with
    | .upstream _ _ => s
    | .copy => s.engineTake
    | .patrol => s.patrolAttempt

/-- The expiry of a phase timer, in the order of R135. -/
def State.timeout (s : State) (slot : SlotNo) (w : Work) : State :=
  let s := s.advanceTo (w.start + Config.mediaTimeoutUs)
  let s := s.setSlot slot { epoch := (s.slot slot).epoch + 1, work := none }
  let s := s.count .mediaTimeouts
  let s := { s with media := { s.media with timeouts := min (s.media.timeouts + 1) Config.timeoutsToFail } }
  let s := s.offerTimeout slot w
  let s := s.tellTimeout w
  let s := if s.media.timeouts = Config.timeoutsToFail ∧ s.media.failed = false then s.enterFailed slot else s
  s.afterTimeout w

/-! ### The rows -/

/-- READ_COMPLETION: accepted by a slot that is not FREE, whose epoch it carries, with a read in flight; else late (R130). -/
def execReadCompletion (slot : SlotNo) (epoch : Epoch) (leg : Bool) (line : StoredLine) (s : State) :
    Host.Outcome State Fault Refusal :=
  match (s.slot slot).work with
  | none => .next (s.lateCompletion slot epoch leg)
  | some w =>
    if epoch = (s.slot slot).epoch ∧ w.phase ≠ .write then .next (s.acceptRead slot w line)
    else .next (s.lateCompletion slot epoch leg)

/-- WRITE_COMPLETION: accepted by a slot that is not FREE, whose epoch it carries, with a write in flight whose leg is
outstanding; else late (R130). -/
def execWriteCompletion (slot : SlotNo) (epoch : Epoch) (leg : Bool) (s : State) : Host.Outcome State Fault Refusal :=
  match (s.slot slot).work with
  | none => .next (s.lateCompletion slot epoch leg)
  | some w =>
    if epoch = (s.slot slot).epoch ∧ w.phase = .write ∧ (if leg then w.leg1 else w.leg0) = true then
      .next (s.acceptWrite slot w leg)
    else .next (s.lateCompletion slot epoch leg)

/-- MEDIA_TIMEOUT: the timer of a slot's phase expires (R135). A FREE slot has no timer: nothing happens (LOG 3). -/
def execMediaTimeout (slot : SlotNo) (s : State) : Host.Outcome State Fault Refusal :=
  match (s.slot slot).work with
  | none => .next s
  | some w => .next (s.timeout slot w)

/-- DRAIN_EXPIRY: 50 µs after a warm reset its effect at the table is done (R140). Without a drain nothing happens (LOG 3). -/
def execDrainExpiry (s : State) : Host.Outcome State Fault Refusal :=
  match s.media.drain with
  | none => .next s
  | some d => .next (s.advanceTo (d.start + Config.mediaTimeoutUs)).finishDrain

end Sys2Proof.Machine
end

