-- ==== Sys2Proof/Machine/Link.lean ====
section
/-! DEFINITION. The rows of the controller port and the resets of its link (chapter 10), and COLD_RESET. -/

namespace Sys2Proof.Machine

/-! ### Arrival (R144 to R148) -/

/-- The tag of a request: bits 0 to 5 of its byte (R181). -/
def tagOf (b : Byte) : Tag := b.setWidth 6

/-- The credit a refused or discarded request spent becomes pending: G falls by 1, P rises by 1 (R143). -/
def State.returnCredit (s : State) : State := { s with ctl := { s.ctl with g := s.ctl.g - 1, p := s.ctl.p + 1 } }

/-- A request refused at arrival: answered at once, its credit pending (R147). -/
def State.refuseArrival (s : State) (tag : Tag) (writes : Bool) (cause : FailCause) : State :=
  (s.returnCredit).send (failAnswer tag writes cause)

/-- The record of a refused or discarded request: PROTOCOL or RANGE, with the line as received and the tag (R6, R146). -/
def State.offerArrival (s : State) (kind : FaultKind) (origin : Origin) (tag : Tag) (line : Nat) : State :=
  s.offerRecord
    { kind := kind, time := s.now, origin := origin, injected := false, line := some line, phys := none, slot := none,
      detail := tag.setWidth 8 }

/-- Whether the patrol's read is in flight: READING, or STOPPING with step phase read (R113). -/
def PatrolState.readInFlight : PatrolState → Bool
  | .reading => true
  | .stopping .read => true
  | .stopping .writeBack => false
  | .writingBack => false
  | .waiting => false
  | .stopped => false

/-- An accepted write or merge to the cursor line of a patrol whose read is in flight sets the cancel mark (R113). -/
def State.markCancel (s : State) (writes : Bool) (line : Nat) : State :=
  if writes ∧ s.patrol.state.readInFlight ∧ s.patrol.cursor = line then s.setPatrol { s.patrol with cancel := true } else s

/-- A request accepted: it joins the queue's tail as WAITING, or HELD if it writes the in-copy line; the cancel mark is set;
a grant attempt answers all-zero merges (R148; LOG 5). -/
def State.acceptRequest (s : State) (tag : Tag) (kind : RequestKind) (line : Nat) : State :=
  let st : IrqState := if kind.writes ∧ s.inCopyLine = some line then .held else .waiting
  let e : IrqEntry := { tag := tag, kind := kind, line := line, state := st }
  let s := { s with ctl := { s.ctl with g := s.ctl.g - 1, irq := s.ctl.irq ++ [e] } }
  (s.markCancel kind.writes line).answerZeroMerges

/-- The arrival of a request: the tests of R144 in order. While the link is down no message passes (R158; LOG 8). -/
def State.arrive (s : State) (tagByte : Byte) (lineField : LineAddr) (kind : RequestKind) : State :=
  let tag := tagOf tagByte
  let line := lineField.toNat
  if s.ctl.linkUp = false then s
  else if s.ctl.g = 0 then s.count .creditOverruns
  else if (s.entryOfTag tag).isSome then ((s.returnCredit).count .protocolErrors).offerArrival .protocol .link tag line
  else if s.ctl.gate ≠ .opened then (s.refuseArrival tag kind.writes .notOpen).count .notOpenRefusals
  else if s.media.failed then s.refuseArrival tag kind.writes .mediaFailed
  else if visibleCapacity s.remap.s ≤ line then (s.refuseArrival tag kind.writes .range).offerArrival .range .upstream tag line
  else s.acceptRequest tag kind line

/-- LINE_READ (R144). -/
def execLineRead (tagByte : Byte) (line : LineAddr) (s : State) : Host.Outcome State Fault Refusal :=
  .next (s.arrive tagByte line .read)

/-- LINE_WRITE (R144). -/
def execLineWrite (tagByte : Byte) (line : LineAddr) (data : LineData) (s : State) : Host.Outcome State Fault Refusal :=
  .next (s.arrive tagByte line (.write data))

/-- LINE_MERGE (R144); the mask plays no part in the tests. -/
def execLineMerge (tagByte : Byte) (line : LineAddr) (data : LineData) (mask : ByteMask) (s : State) :
    Host.Outcome State Fault Refusal :=
  .next (s.arrive tagByte line (.merge data mask))

/-- UNKNOWN_MESSAGE_TYPE: discarded without an answer; nothing changes (R181). -/
def execUnknownMessageType (_type : Byte) (s : State) : Host.Outcome State Fault Refusal := .next s

/-! ### Credits (R143) -/

/-- A CREDIT message carrying the whole of P; P moves to G in the same step (R143). With P = 0 there is none to send, and
while the link is down no message passes (R158). -/
def State.sendCredit (s : State) : State :=
  if s.ctl.p = 0 ∨ s.ctl.linkUp = false then s
  else
    { s with ctl := { s.ctl with g := s.ctl.g + s.ctl.p, p := 0, out := s.ctl.out ++ [.credit s.ctl.p] } }

/-- CREDIT: taken while P is 1 or more and the link is up (R143, R158); otherwise there is no message to send (LOG 3). -/
def execCredit (s : State) : Host.Outcome State Fault Refusal := .next s.sendCredit

/-! ### Link reset and link-up (R141, R158) -/

/-- An upstream slot detached: its owner reference becomes none; its phase runs on, and its tag stays a fact of its reads (R79,
R141; LOG 25). -/
def MediaSlot.detached (m : MediaSlot) : MediaSlot :=
  match m.work with
  | none => m
  | some w =>
    match w.owner with
    | .upstream tag _ => { m with work := some { w with owner := .upstream tag false } }
    | .copy => m
    | .patrol => m

/-- Every upstream slot that is not FREE detached; the background slot is not touched (R141). -/
def State.detachUpstream (s : State) : State :=
  let slots := Vector.ofFn fun i : Fin 16 => s.media.slots[i].detached
  { s with media := { s.media with slots := slots } }

/-- LINK_RESET: entries discarded, upstream slots detached, unsent messages dropped, credits restored; a QUIESCING gate
closes and sets GATE_CLOSED (R158). -/
def execLinkReset (s : State) : Host.Outcome State Fault Refusal :=
  let s := s.detachUpstream
  let s := { s with ctl := { s.ctl with linkUp := false, g := Config.credits, p := 0, irq := [], out := [] } }
  .next s.closeIfEmpty

/-- LINK_UP: messages pass again, and the controller holds the 32 credits of G (R158). -/
def execLinkUp (s : State) : Host.Outcome State Fault Refusal := .next { s with ctl := { s.ctl with linkUp := true } }

/-! ### Cold reset (R35, 00 "Resets") -/

/-- COLD_RESET: every block in its initial state, the straps sampled. The model's own queue and its count of free values go on. -/
def execColdReset (spr : BitVec 3) (ma : BitVec 2) (s : State) : Host.Outcome State Fault Refusal :=
  .next
    { State.reset with
      remap := { State.reset.remap with s := reservationOfStrap spr }
      mgmt := { State.reset.mgmt with ma := ma }
      freeCount := s.freeCount
      pending := s.pending }

end Sys2Proof.Machine
end

