-- ==== Sys2Proof/Machine/Bus.lean ====
section
/-! DEFINITION. The rows of the I2C bus and the register window (chapter 12). -/

namespace Sys2Proof.Machine

/-- UNKNOWN_COMMAND: a code that names no command is written to COMMAND (R175). -/
def execUnknownCommand (code : Byte) (s : State) : Host.Outcome State Fault Refusal := .next (s.writeCommand code)

/-- COMMAND_OVERRUN: a byte is written to COMMAND; while RESULT is BUSY it is ignored and CMD_OVERRUN is set (R176). -/
def execCommandOverrun (code : Byte) (s : State) : Host.Outcome State Fault Refusal := .next (s.writeCommand code)

/-- EVENT_FLAG_WRITE: a byte is written to FLAGS0 or FLAGS1 (R168, R174). -/
def execEventFlagWrite (which : FlagByte) (value : Byte) (s : State) : Host.Outcome State Fault Refusal :=
  .next (s.clearFlags which value)

/-- POINTER_WRITE: the first data byte of a write transaction to the port sets the pointer to its low six bits, and is
acknowledged (R172). In any other bus state the byte is not the port's (LOG 3). -/
def execPointerWrite (value : Byte) (s : State) : Host.Outcome State Fault Refusal :=
  if s.mgmt.bus = .pointerNext then
    .next (s.setMgmt { s.mgmt with pointer := value.setWidth 6, bus := .writing, ack := true })
  else .next s

/-- The pointer advances by one, wrapping from 0x3F to 0x00; a written byte is acknowledged (R172). -/
def State.ackWrite (s : State) : State := s.setMgmt { s.mgmt with pointer := s.mgmt.pointer + 1, ack := true }

/-- REGISTER_WRITE: a later data byte of a write transaction to the port goes to the register at the pointer (R172, R173). -/
def execRegisterWrite (value : Byte) (s : State) : Host.Outcome State Fault Refusal :=
  if s.mgmt.bus = .writing then .next (s.writeRegister s.mgmt.pointer.toNat value).ackWrite else .next s

/-- REGISTER_READ: a data byte of a read transaction returns the register at the pointer as it stands; the pointer advances
and wraps (R172). -/
def execRegisterRead (s : State) : Host.Outcome State Fault Refusal :=
  if s.mgmt.bus = .reading then
    let byte := s.readRegister s.mgmt.pointer.toNat
    .next (s.setMgmt { s.mgmt with out := s.mgmt.out ++ [byte], pointer := s.mgmt.pointer + 1 })
  else .next s

/-- The port's own address: 0x38 plus the MA straps (R172). -/
def State.i2cAddress (s : State) : BitVec 7 := Config.i2cBase + s.mgmt.ma.setWidth 7

/-- ADDRESS_BYTE: a start or repeated start and the address byte. The port acknowledges its own address and ignores any other
(R172). -/
def execAddressByte (address : BitVec 7) (read : Bool) (s : State) : Host.Outcome State Fault Refusal :=
  if address = s.i2cAddress then
    .next (s.setMgmt { s.mgmt with bus := if read then .reading else .pointerNext, ack := true })
  else .next (s.setMgmt { s.mgmt with bus := .idle, ack := false })

end Sys2Proof.Machine
end

