-- ==== Sys2Proof/Machine/GateCommands.lean ====
section
/-! DEFINITION. GET_STATUS, OPEN_GATE, CLOSE_GATE (chapter 10) and WARM_RESET (R177). -/

namespace Sys2Proof.Machine

/-- GET_STATUS: OK in every state, with the status readout in DATA and DATA_X (R157, R179). -/
def execGetStatus (s : State) : Host.Outcome State Fault Refusal :=
  .next (s.runCommand codeGetStatus fun _ s => ((s.putData s.statusBytes).putDataX s.statusXBytes).complete .ok)

/-- The gate put in a state. -/
def State.setGate (s : State) (g : Gate) : State := { s with ctl := { s.ctl with gate := g } }

/-- The effect of OPEN_GATE (R156). -/
def State.openGate (s : State) : State :=
  match s.ctl.gate with
  | .closed => (s.setGate .opened).complete .ok
  | .opened => s.complete .wrongState
  | .quiescing => s.complete .wrongState

/-- OPEN_GATE: opens a CLOSED gate; WRONG_STATE in OPEN and QUIESCING (R156). -/
def execOpenGate (s : State) : Host.Outcome State Fault Refusal := .next (s.runCommand codeOpenGate fun _ s => s.openGate)

/-- The effect of CLOSE_GATE: OPEN goes to QUIESCING, and on to CLOSED at once when the queue is empty (R155, R156). -/
def State.closeGate (s : State) : State :=
  match s.ctl.gate with
  | .opened => ((s.setGate .quiescing).closeIfEmpty).complete .ok
  | .closed => s.complete .ok
  | .quiescing => s.complete .ok

/-- CLOSE_GATE: OK in every gate state, once the change is made (R156). -/
def execCloseGate (s : State) : Host.Outcome State Fault Refusal := .next (s.runCommand codeCloseGate fun _ s => s.closeGate)

/-! ### WARM_RESET (R177) -/

/-- The controller port's effect: the gate closes without its flag, every unretired entry is answered with RESET in arrival
order, and the pending credits are sent (R155, R159). -/
def State.warmController (s : State) : State :=
  let answers := s.ctl.irq.map fun e => failAnswer e.tag e.kind.writes .reset
  State.sendCredit
    { s with ctl :=
      { s.ctl with gate := .closed, irq := [], p := s.ctl.p + s.ctl.irq.length, out := s.ctl.out ++ answers } }

/-- The engine's effect: a migration aborts with WARM_RESET, the queue is emptied, and no request is taken (R46, R49, R71). -/
def State.warmEngine (s : State) : State :=
  let s := if s.engine.isSome then s.abort .warmReset else s
  { s with srq := [] }

/-- The injection unit's effect: every slot disarmed, its match counter at 0, its other fields kept (R119). -/
def State.warmInject (s : State) : State :=
  { s with inject := Vector.ofFn fun k : Fin 4 => { s.inject[k] with armed := false, count := 0 } }

/-- The legs of a slot that await completion, with the epoch before the advance (R140). -/
def MediaSlot.drainLegs (m : MediaSlot) (slot : SlotNo) : List DrainLeg :=
  match m.work with
  | none => []
  | some w =>
    (if w.leg0 then [{ slot := slot, epoch := m.epoch, leg := false }] else [])
      ++ (if w.leg1 then [{ slot := slot, epoch := m.epoch, leg := true }] else [])

/-- The slots of the Media Operation Table in rising order. -/
def allSlots : List SlotNo := upstreamSlots ++ [background]

/-- The drain record that a warm reset makes (R140). -/
def State.outstanding (s : State) : List DrainLeg := allSlots.flatMap fun i => (s.slot i).drainLegs i

/-- The table's effect: every slot FREE, every epoch advanced, the port OK, no consecutive timeouts, the drain started; with
nothing outstanding its effect is done at once (R140). -/
def State.warmMedia (s : State) : State :=
  let legs := s.outstanding
  let slots := Vector.ofFn fun i : Fin 16 => ({ epoch := s.media.slots[i].epoch + 1, work := none } : MediaSlot)
  let drain : Option Drain := if legs = [] then none else some { legs := legs, start := s.us }
  { s with media := { s.media with slots := slots, failed := false, timeouts := 0, drain := drain } }

/-- The command's own end: OK at once when nothing drains; else it stays BUSY, taken, until the drain ends (R177). -/
def State.warmComplete (s : State) : State :=
  match s.media.drain with
  | none => s.complete .ok
  | some _ => s.setMgmt { s.mgmt with running := s.mgmt.running.map fun r => { r with taken := true } }

/-- The effects of a warm reset in the order of R177. -/
def State.warmReset (s : State) : State := s.warmController.warmEngine.stopPatrol.warmInject.warmMedia.warmComplete

/-- WARM_RESET: accepted in every state; each block takes its effect in the same step (R177). -/
def execWarmReset (s : State) : Host.Outcome State Fault Refusal := .next (s.runCommand codeWarmReset fun _ s => s.warmReset)

end Sys2Proof.Machine
end

