-- ==== Sys2Proof/Machine/InjectCommands.lean ====
section
/-! DEFINITION. SET_INJECT and CLEAR_INJECT (chapter 8). -/

namespace Sys2Proof.Machine

/-- The column codes: 0 to 127 one line, 0xFF ANY; any other is refused (R124, R178). -/
def injectColumnOf (b : Nat) : Option InjectColumn :=
  if b < 128 then some (.column b) else if b = 255 then some .any else none

/-- The outcome codes (R178). -/
def injectOutcomeOf : Nat → Option InjectOutcome
  | 0 => some .corrected
  | 1 => some .uncorrectable
  | _ => none

/-- The mode codes (R178). -/
def injectModeOf : Nat → Option InjectMode
  | 0 => some .oneShot
  | 1 => some .periodic
  | 2 => some .continuous
  | _ => none

/-- Whether n is allowed: 1 to 255, or any value for CONTINUOUS, which does not use it (R119, R124; LOG 23). -/
def injectCountOk : InjectMode → Nat → Bool
  | .oneShot, n => n != 0
  | .periodic, n => n != 0
  | .continuous, _ => true

/-- The slot that PARAM[1..9] describe, its match counter at 0; none where the checks of R124 refuse a value. The address test
is made when the slot is armed. The mask byte is 1 to 7: bits 0 to 2 name at least one origin, bits 3 to 7 are zero. -/
def injectSlotOf (reservation : Nat) (p : Params) : Option InjectSlot :=
  match onOff (paramByte p 1), injectColumnOf (paramByte p 5), injectOutcomeOf (paramByte p 6), injectModeOf (paramByte p 8) with
  | some armed, some column, some outcome, some mode =>
    let bank := paramByte p 2
    let row := paramHalf p 3
    let mask := paramByte p 7
    if armed && !(bankOk bank && rowOk reservation row) then none
    else if 1 ≤ mask ∧ mask ≤ 7 ∧ injectCountOk mode (paramByte p 9) then
      some
        { armed := armed, bank := bank, row := row, column := column, outcome := outcome, onUpstream := mask.testBit 0,
          onPatrol := mask.testBit 1, onCopy := mask.testBit 2, mode := mode, n := paramByte p 9, count := 0 }
    else none
  | _, _, _, _ => none

/-- The effect of SET_INJECT: every field replaced, or BAD_PARAM (R124). -/
def State.setInject (s : State) (index : Nat) (slot : Option InjectSlot) : State :=
  match slot with
  | none => s.complete .badParam
  | some i =>
    if h : index < 4 then State.complete { s with inject := s.inject.set index i h } .ok else s.complete .badParam

/-- SET_INJECT (R124). -/
def execSetInject (s : State) : Host.Outcome State Fault Refusal :=
  .next (s.runCommand codeSetInject fun p s => s.setInject (paramByte p 0) (injectSlotOf s.remap.s p))

/-- The effect of CLEAR_INJECT: the slot disarmed, its counter 0, its other fields kept (R125). -/
def State.clearInject (s : State) (index : Nat) : State :=
  if h : index < 4 then
    State.complete { s with inject := s.inject.set index { s.inject[index] with armed := false, count := 0 } h } .ok
  else s.complete .badParam

/-- CLEAR_INJECT (R125). -/
def execClearInject (s : State) : Host.Outcome State Fault Refusal :=
  .next (s.runCommand codeClearInject fun p s => s.clearInject (paramByte p 0))

end Sys2Proof.Machine
end

