-- ==== Sys2Proof/Machine/LogCommands.lean ====
section
/-! DEFINITION. READ_FAULT, POP_FAULT, READ_COUNTERS, CLEAR_COUNTERS and SET_ALERT_MASK (chapter 11). -/

namespace Sys2Proof.Machine

/-- The effect of READ_FAULT: the head record copied to DATA, and kept (R164). -/
def State.readFault (s : State) : State :=
  match s.log.records with
  | [] => s.complete .empty
  | r :: _ => s.completeWith r.bytes

/-- READ_FAULT (R164). -/
def execReadFault (s : State) : Host.Outcome State Fault Refusal := .next (s.runCommand codeReadFault fun _ s => s.readFault)

/-- The effect of POP_FAULT: the head record removed; LOG_NONEMPTY follows the log (R164, R169). -/
def State.popFault (s : State) : State :=
  match s.log.records with
  | [] => s.complete .empty
  | _ :: rest => State.complete { s with log := { s.log with records := rest } } .ok

/-- POP_FAULT (R164). -/
def execPopFault (s : State) : Host.Outcome State Fault Refusal := .next (s.runCommand codePopFault fun _ s => s.popFault)

/-- The effect of READ_COUNTERS: the group's values, then the clear, in one step (R167). -/
def State.readCounters (s : State) (group : Nat) (clear : Option Bool) : State :=
  match clear with
  | none => s.complete .badParam
  | some c =>
    if 2 < group then s.complete .badParam
    else
      let s' := s.completeWith (s.counterBytes group)
      if c then s'.clearGroup group else s'

/-- READ_COUNTERS (R167). -/
def execReadCounters (s : State) : Host.Outcome State Fault Refusal :=
  .next (s.runCommand codeReadCounters fun p s => s.readCounters (paramByte p 0) (onOff (paramByte p 1)))

/-- CLEAR_COUNTERS: all eighteen at 0 (R167). -/
def execClearCounters (s : State) : Host.Outcome State Fault Refusal :=
  .next (s.runCommand codeClearCounters fun _ s => State.complete { s with counters := Vector.replicate 18 0 } .ok)

/-- The effect of SET_ALERT_MASK: an enable in a position that names no flag is refused (R171). -/
def State.setAlertMask (s : State) (mask : BitVec 16) : State :=
  if mask &&& ~~~flagPositions = 0 then State.complete { s with mask := mask } .ok else s.complete .badParam

/-- SET_ALERT_MASK (R171). -/
def execSetAlertMask (s : State) : Host.Outcome State Fault Refusal :=
  .next (s.runCommand codeSetAlertMask fun p s => s.setAlertMask (BitVec.ofNat 16 (paramHalf p 0)))

end Sys2Proof.Machine
end

