-- ==== Sys2Proof/Machine/PatrolCommands.lean ====
section
/-! DEFINITION. The operations of PATROL_CONTROL (R116, R117): START, STOP, SET_INTERVAL, SET_CURSOR. -/

namespace Sys2Proof.Machine

/-- The effect of START by patrol state and port state (R116). -/
def State.startPatrol (s : State) : State :=
  match s.patrol.state with
  | .stopped =>
    if s.media.failed then s.complete .wrongState
    else
      (s.setPatrol
        { s.patrol with state := .waiting, due := false, timer := some (s.us + s.patrol.interval) }).complete .ok
  | .waiting => s.complete .ok
  | .reading => s.complete .ok
  | .writingBack => s.complete .ok
  | .stopping _ => s.complete .wrongState

/-- START (R116). -/
def execStart (s : State) : Host.Outcome State Fault Refusal := .next (s.runPatrol opStart fun _ s => s.startPatrol)

/-- The patrol asked to stop: the timer stops and due becomes no; the cancel mark and the cursor are kept (R116). -/
def State.haltPatrol (s : State) (state : PatrolState) : State :=
  s.setPatrol { s.patrol with state := state, due := false, timer := none }

/-- The effect of STOP by patrol state (R116). -/
def State.stopCommand (s : State) : State :=
  match s.patrol.state with
  | .stopped => s.complete .ok
  | .waiting => (s.haltPatrol .stopped).complete .ok
  | .reading => (s.haltPatrol (.stopping .read)).complete .ok
  | .writingBack => (s.haltPatrol (.stopping .writeBack)).complete .ok
  | .stopping _ => s.complete .ok

/-- STOP (R116). -/
def execStop (s : State) : Host.Outcome State Fault Refusal := .next (s.runPatrol opStop fun _ s => s.stopCommand)

/-- The effect of SET_INTERVAL: the running timer keeps its expiry (R117). -/
def State.setInterval (s : State) (interval : Nat) : State :=
  if interval = 0 then s.complete .badParam
  else (s.setPatrol { s.patrol with interval := interval }).complete .ok

/-- SET_INTERVAL (R117). -/
def execSetInterval (s : State) : Host.Outcome State Fault Refusal :=
  .next (s.runPatrol opSetInterval fun p s => s.setInterval (paramHalf p 1))

/-- The effect of SET_CURSOR: the line is tested first, then the patrol state (R7, R117). -/
def State.setCursor (s : State) (line : Nat) : State :=
  if lineOk s.remap.s line = false then s.complete .badParam
  else if s.patrol.state = .stopped then
    (s.setPatrol { s.patrol with cursor := line, sweepReads := 0 }).complete .ok
  else s.complete .wrongState

/-- SET_CURSOR (R117). -/
def execSetCursor (s : State) : Host.Outcome State Fault Refusal :=
  .next (s.runPatrol opSetCursor fun p s => s.setCursor (paramWord p 1))

end Sys2Proof.Machine
end

