-- ==== Sys2Proof/Machine/RegionCommands.lean ====
section
/-! DEFINITION. SET_REGION and READ_REGION (chapter 2). -/

namespace Sys2Proof.Machine

/-- The codes of UE_RESPONSE: 0 POISON, 1 FAIL; any other is refused (R21, R178). -/
def ueResponseOf : Nat → Option UeResponse
  | 0 => some .poison
  | 1 => some .fail
  | _ => none

/-- The six attributes in PARAM[3..8]; none where a value is refused (R21, R178). -/
def attributesOf (p : Params) : Option Policy :=
  match onOff (paramByte p 3), onOff (paramByte p 4), onOff (paramByte p 5), ueResponseOf (paramByte p 6), onOff (paramByte p 7) with
  | some scrub, some autospare, some ueSpare, some ueResponse, some ceLog =>
    if h : paramByte p 8 < 4 then
      some { scrub := scrub, autospare := autospare, ueSpare := ueSpare, ueResponse := ueResponse, ceLog := ceLog,
             cls := ⟨paramByte p 8, h⟩ }
    else none
  | _, _, _, _, _ => none

/-- The effect of SET_REGION: the checks of R21, then the order check of R22, then the replacement as one change. -/
def State.setRegion (s : State) (index limit : Nat) (attributes : Option Policy) : State :=
  match attributes with
  | none => s.complete .badParam
  | some policy =>
    if h : index < 8 then
      if 32768 < limit then s.complete .badParam
      else if limit < s.lowerBound index ∨ s.upperBound index < limit then s.complete .badOrder
      else State.complete { s with regions := s.regions.set index { limit := limit, policy := policy } h } .ok
    else s.complete .badParam

/-- SET_REGION (R21, R22). -/
def execSetRegion (s : State) : Host.Outcome State Fault Refusal :=
  .next (s.runCommand codeSetRegion fun p s => s.setRegion (paramByte p 0) (paramHalf p 1) (attributesOf p))

/-- The effect of READ_REGION (R23). -/
def State.readRegion (s : State) (index : Nat) : State :=
  if h : index < 8 then s.completeWith (s.regionBytes index s.regions[index]) else s.complete .badParam

/-- READ_REGION (R23). -/
def execReadRegion (s : State) : Host.Outcome State Fault Refusal :=
  .next (s.runCommand codeReadRegion fun p s => s.readRegion (paramByte p 0))

end Sys2Proof.Machine
end

