-- ==== Sys2Proof/Machine/RemapCommands.lean ====
section
/-! DEFINITION. The remap block's commands (chapter 3): SET_RESERVATION, READ_REMAP, FIND_REMAP, INSTALL_ENTRY, DROP_ENTRY,
READ_POOL, MARK_SPARE_DEAD, SET_LOW_WATER. -/

namespace Sys2Proof.Machine

/-- A new S: every pool rebuilt with all spares FREE, and the queued requests of rows that are no longer visible removed
without a record (R37). -/
def State.rebuild (s : State) (reservation : Nat) : State :=
  { s with
    remap := { s.remap with s := reservation, spares := [] }
    srq := s.srq.filter fun r => r.row < visibleRows reservation }

/-- The effect of SET_RESERVATION (R36, R37). -/
def State.setReservation (s : State) (reservation : Nat) : State :=
  if isReservation reservation = false then s.complete .badParam
  else if s.ctl.gate ≠ .closed ∨ s.remap.table ≠ [] then s.complete .wrongState
  else (s.rebuild reservation).complete .ok

/-- SET_RESERVATION (R36, R37). -/
def execSetReservation (s : State) : Host.Outcome State Fault Refusal :=
  .next (s.runCommand codeSetReservation fun p s => s.setReservation (paramByte p 0))

/-- The effect of READ_REMAP (R43). -/
def State.readRemap (s : State) (slot : Nat) : State :=
  if Config.tableSlots ≤ slot then s.complete .badParam else s.completeWith (s.remapBytes slot)

/-- READ_REMAP (R43). -/
def execReadRemap (s : State) : Host.Outcome State Fault Refusal :=
  .next (s.runCommand codeReadRemap fun p s => s.readRemap (paramHalf p 0))

/-- The effect of FIND_REMAP (R44). -/
def State.findRemap (s : State) (bank row : Nat) : State :=
  if (bankOk bank && rowOk s.remap.s row) = false then s.complete .badParam
  else
    match s.remap.find bank row with
    | none => s.complete .notFound
    | some x => s.completeWith (s.remapBytes x.1)

/-- FIND_REMAP (R44). -/
def execFindRemap (s : State) : Host.Outcome State Fault Refusal :=
  .next (s.runCommand codeFindRemap fun p s => s.findRemap (paramByte p 0) (paramHalf p 1))

/-- The installed entry put in its slot and its spare assigned (R39). -/
def State.install (s : State) (slot bank row spare : Nat) : State :=
  let e : RemapEntry :=
    { bank := bank, row := row, dest := spare, state := .active, origin := .installed, generation := 0, time := s.now }
  (s.createEntry slot e).assignSpare bank spare

/-- The effect of INSTALL_ENTRY: the five checks of R39 in order, then the entry. -/
def State.installEntry (s : State) (bank row spare : Nat) : State :=
  if (bankOk bank && rowOk s.remap.s row && spareOk s.remap.s spare) = false then s.complete .badParam
  else if s.ctl.gate ≠ .closed then s.complete .wrongState
  else if (s.remap.find bank row).isSome then s.complete .duplicate
  else
    match s.remap.freeSlot with
    | none => s.complete .full
    | some slot =>
      if s.remap.spareState bank spare ≠ .free then s.complete .wrongState
      else (s.install slot bank row spare).completeWith (leBytes 2 slot)

/-- INSTALL_ENTRY (R39). -/
def execInstallEntry (s : State) : Host.Outcome State Fault Refusal :=
  .next (s.runCommand codeInstallEntry fun p s => s.installEntry (paramByte p 0) (paramHalf p 1) (paramByte p 3))

/-- The entry removed and its destination returned to the pool, or retired (R41). -/
def State.drop (s : State) (slot : Nat) (e : RemapEntry) (dead : Bool) : State :=
  let s := s.dropSlot slot
  if dead then s.retireSpare e.bank e.dest else s.returnSpare e.bank e.dest

/-- The effect of DROP_ENTRY: the four checks of R41 in order, then the removal. Fate 0 is FREE, 1 DEAD (R178). -/
def State.dropEntry (s : State) (slot fate : Nat) : State :=
  match onOff fate with
  | none => s.complete .badParam
  | some dead =>
    if Config.tableSlots ≤ slot then s.complete .badParam
    else if s.ctl.gate ≠ .closed then s.complete .wrongState
    else
      match s.remap.entryAt slot with
      | none => s.complete .notFound
      | some e => if e.isMigrating then s.complete .wrongState else (s.drop slot e dead).complete .ok

/-- DROP_ENTRY (R41). -/
def execDropEntry (s : State) : Host.Outcome State Fault Refusal :=
  .next (s.runCommand codeDropEntry fun p s => s.dropEntry (paramHalf p 0) (paramByte p 2))

/-- The effect of READ_POOL (R45). -/
def State.readPool (s : State) (bank : Nat) : State :=
  if bankOk bank then s.completeWith (s.poolBytes bank) else s.complete .badParam

/-- READ_POOL (R45). -/
def execReadPool (s : State) : Host.Outcome State Fault Refusal :=
  .next (s.runCommand codeReadPool fun p s => s.readPool (paramByte p 0))

/-- The effect of MARK_SPARE_DEAD (R42). -/
def State.markSpareDead (s : State) (bank spare : Nat) : State :=
  if (bankOk bank && spareOk s.remap.s spare) = false then s.complete .badParam
  else if s.remap.spareState bank spare = .free then (s.markDead bank spare).complete .ok
  else s.complete .wrongState

/-- MARK_SPARE_DEAD (R42). -/
def execMarkSpareDead (s : State) : Host.Outcome State Fault Refusal :=
  .next (s.runCommand codeMarkSpareDead fun p s => s.markSpareDead (paramByte p 0) (paramByte p 1))

/-- The effect of SET_LOW_WATER: the mark alone; no bank is tested (R34). -/
def State.setLowWater (s : State) (mark : Nat) : State :=
  if 64 < mark then s.complete .badParam
  else State.complete { s with remap := { s.remap with lowWater := mark } } .ok

/-- SET_LOW_WATER (R34). -/
def execSetLowWater (s : State) : Host.Outcome State Fault Refusal :=
  .next (s.runCommand codeSetLowWater fun p s => s.setLowWater (paramByte p 0))

end Sys2Proof.Machine
end

