-- ==== Sys2Proof/Machine/SparingCommands.lean ====
section
/-! DEFINITION. SPARE_ROW and ABORT_MIGRATION (chapter 4). -/

namespace Sys2Proof.Machine

/-- The effect of SPARE_ROW: an offer with cause COMMAND; a duplicate and a lost one leave no record and no count (R47, R48).
An IDLE engine takes the appended request in the same step (R49). -/
def State.spareRow (s : State) (bank row : Nat) : State :=
  if (bankOk bank && rowOk s.remap.s row) = false then s.complete .badParam
  else
    match s.testOffer bank row with
    | .dropped => s.complete .badParam
    | .duplicate => s.complete .duplicate
    | .lost => s.complete .full
    | .appended => (s.appendRequest { bank := bank, row := row, cause := .command }).complete .queued

/-- SPARE_ROW (R48). -/
def execSpareRow (s : State) : Host.Outcome State Fault Refusal :=
  .next (s.runCommand codeSpareRow fun p s => s.spareRow (paramByte p 0) (paramHalf p 1))

/-- The effect of ABORT_MIGRATION: WRONG_STATE in IDLE; else the abort with reason COMMAND, after which the engine takes the
next request (R67, R69). -/
def State.abortMigration (s : State) : State :=
  match s.engine with
  | none => s.complete .wrongState
  | some _ => ((s.abort .command).engineTake).complete .ok

/-- ABORT_MIGRATION (R69). -/
def execAbortMigration (s : State) : Host.Outcome State Fault Refusal :=
  .next (s.runCommand codeAbortMigration fun _ s => s.abortMigration)

end Sys2Proof.Machine
end

