-- ==== Sys2Proof/Machine/Timers.lean ====
section
/-! DEFINITION. The rows in which the part acts on its own: DECAY_EXPIRY, INTERVAL_EXPIRY, SLOT_GRANT, COPY_READ_ISSUE,
PATROL_READ_ISSUE. -/

namespace Sys2Proof.Machine

/-- DECAY_EXPIRY: every budget rises by 1 and entries at their threshold heal; the next expiry is one period on (R91, R97).
With a period of 0 the timer has no expiries (LOG 3). -/
def execDecayExpiry (s : State) : Host.Outcome State Fault Refusal :=
  match s.watch.nextExpiry with
  | none => .next s
  | some t =>
    let s := s.advanceTo t
    .next
      { s with watch :=
        { s.watch with entries := decayEntries s.watch.entries, nextExpiry := some (t + 1000 * s.watch.period) } }

/-- INTERVAL_EXPIRY: in WAITING the step becomes due and an attempt follows; in READING and WRITING_BACK due is set; the timer
does not run again until the next read is issued (R109). A timer that does not run has no expiry (LOG 3). -/
def execIntervalExpiry (s : State) : Host.Outcome State Fault Refusal :=
  match s.patrol.timer with
  | none => .next s
  | some t =>
    let s := s.advanceTo t
    let s := s.setPatrol { s.patrol with timer := none }
    match s.patrol.state with
    | .waiting => .next (s.setPatrol { s.patrol with due := true }).patrolAttempt
    | .reading => .next (s.setPatrol { s.patrol with due := true })
    | .writingBack => .next (s.setPatrol { s.patrol with due := true })
    | .stopping _ => .next s
    | .stopped => .next s

/-- The read phase of an upstream slot's work, translated now, with the fallback target it records (R9, R12). -/
def State.readWork (s : State) (tag : Tag) (line : Nat) : Work :=
  let t := s.translateRead line
  { stage := .issued, owner := .upstream tag true, line := line, phase := .read, target := t.1, target2 := none, leg0 := true,
    leg1 := false, fallback := t.2, start := s.us }

/-- The first phase of an entry's work issued from a slot (R85, R129): a write for a LINE_WRITE and for a merge with an
all-ones mask, else a read. -/
def State.issueFirst (s : State) (slot : SlotNo) (e : IrqEntry) : State :=
  let w := s.readWork e.tag e.line
  match e.kind with
  | .read => s.issuePhase slot w none
  | .write data => s.issueWrite slot { w with fallback := none } data
  | .merge data mask =>
    if mask = BitVec.allOnes 64 then s.issueWrite slot { w with fallback := none } data else s.issuePhase slot w none

/-- The grant of an upstream slot to an entry: the slot issues its first phase and the entry becomes ISSUED, in one step (R132). -/
def State.grant (s : State) (slot : SlotNo) (e : IrqEntry) : State :=
  (s.issueFirst slot e).setEntryState e.tag (.issued slot)

/-- SLOT_GRANT: a grant attempt (R132). All-zero merges whose conditions hold are answered (R85); then the oldest eligible
entry is granted the lowest FREE upstream slot (R150). With nothing eligible, or no FREE slot, nothing is granted (LOG 3, LOG 5). -/
def execSlotGrant (s : State) : Host.Outcome State Fault Refusal :=
  let s := s.answerZeroMerges
  if s.queueMayIssue then
    match s.freeUpstream, s.oldestEligible [] s.ctl.irq with
    | some i, some e => .next (s.grant i e)
    | _, _ => .next s
  else .next s

/-- The WAITING writes and merges of a line become HELD (R58). -/
def State.holdLine (s : State) (line : Nat) : State :=
  let hold (e : IrqEntry) : IrqEntry :=
    if e.state = .waiting ∧ e.kind.writes ∧ e.line = line then { e with state := .held } else e
  { s with ctl := { s.ctl with irq := s.ctl.irq.map hold } }

/-- The copy read of the cursor line issued: the engine enters READING, and the unissued writes and merges of the line are
HELD (R55, R58). -/
def State.issueCopyRead (s : State) (c : EngineCtx) (e : RemapEntry) : State :=
  let line := lineOf e.row e.bank c.cursor
  let w : Work :=
    { stage := .issued, owner := .copy, line := line, phase := .read,
      target := { bank := e.bank, row := sourceRow s.remap.s e.row c.source, column := c.cursor }, target2 := none, leg0 := true,
      leg1 := false, fallback := none, start := s.us }
  let s := s.issuePhase background w none
  { s with engine := some { c with state := .reading } }.holdLine line

/-- COPY_READ_ISSUE: the copy is issued when it is ready, the background slot is FREE and the table issues operations (R54,
R133, R139, R140); otherwise nothing is issued (LOG 3, LOG 5). -/
def execCopyReadIssue (s : State) : Host.Outcome State Fault Refusal :=
  match s.engineEntry with
  | none => .next s
  | some (c, e) =>
    if s.copyReady && (s.slot background).work.isNone && s.mayIssue then .next (s.issueCopyRead c e) else .next s

/-- PATROL_READ_ISSUE: an attempt of the due patrol (R110). -/
def execPatrolReadIssue (s : State) : Host.Outcome State Fault Refusal := .next s.patrolAttempt

end Sys2Proof.Machine
end

