-- ==== Sys2Proof/Machine/WatchCommands.lean ====
section
/-! DEFINITION. READ_WATCH, CLEAR_WATCH and SET_THRESHOLDS (chapter 6). -/

namespace Sys2Proof.Machine

/-- The effect of READ_WATCH (R103). -/
def State.readWatch (s : State) (index : Nat) : State :=
  if Config.watchPlaces ≤ index then s.complete .badParam
  else
    match s.watch.entries[index]? with
    | none => s.complete .notFound
    | some e => s.completeWith (s.watchBytes index e)

/-- READ_WATCH (R103). -/
def execReadWatch (s : State) : Host.Outcome State Fault Refusal :=
  .next (s.runCommand codeReadWatch fun p s => s.readWatch (paramByte p 0))

/-- CLEAR_WATCH: every entry removed; classes, period and timer kept (R102). -/
def execClearWatch (s : State) : Host.Outcome State Fault Refusal :=
  .next (s.runCommand codeClearWatch fun _ s => (s.setWatch []).complete .ok)

/-- The effect of SET_THRESHOLDS: any threshold 0 is BAD_PARAM; else classes and period are replaced and the decay timer
restarts, with no expiry under a period of 0 (R91, R92). -/
def State.setThresholds (s : State) (t0 t1 t2 t3 period : Nat) : State :=
  if t0 = 0 ∨ t1 = 0 ∨ t2 = 0 ∨ t3 = 0 then s.complete .badParam
  else
    let expiry : Option Nat := if period = 0 then none else some (s.us + 1000 * period)
    State.complete
      { s with watch := { s.watch with thresholds := #v[t0, t1, t2, t3], period := period, nextExpiry := expiry } } .ok

/-- SET_THRESHOLDS (R92). -/
def execSetThresholds (s : State) : Host.Outcome State Fault Refusal :=
  .next (s.runCommand codeSetThresholds fun p s =>
    s.setThresholds (paramByte p 0) (paramByte p 1) (paramByte p 2) (paramByte p 3) (paramHalf p 4))

end Sys2Proof.Machine
end

