-- ==== Sys2Proof/Machine/Dispatch.lean ====
section
/-! DEFINITION. One arm per command. -/

namespace Sys2Proof.Machine

def exec (i : Instr) (s : State) : Host.Outcome State Fault Refusal :=
  match i with
  | .coldReset spr ma => Sys2Proof.Machine.execColdReset spr ma s
  | .linkReset => Sys2Proof.Machine.execLinkReset s
  | .lineRead tagByte line => Sys2Proof.Machine.execLineRead tagByte line s
  | .lineWrite tagByte line data => Sys2Proof.Machine.execLineWrite tagByte line data s
  | .lineMerge tagByte line data mask => Sys2Proof.Machine.execLineMerge tagByte line data mask s
  | .unknownMessageType type => Sys2Proof.Machine.execUnknownMessageType type s
  | .credit => Sys2Proof.Machine.execCredit s
  | .readCompletion slot epoch leg line => Sys2Proof.Machine.execReadCompletion slot epoch leg line s
  | .writeCompletion slot epoch leg => Sys2Proof.Machine.execWriteCompletion slot epoch leg s
  | .mediaTimeout slot => Sys2Proof.Machine.execMediaTimeout slot s
  | .drainExpiry => Sys2Proof.Machine.execDrainExpiry s
  | .decayExpiry => Sys2Proof.Machine.execDecayExpiry s
  | .intervalExpiry => Sys2Proof.Machine.execIntervalExpiry s
  | .slotGrant => Sys2Proof.Machine.execSlotGrant s
  | .copyReadIssue => Sys2Proof.Machine.execCopyReadIssue s
  | .patrolReadIssue => Sys2Proof.Machine.execPatrolReadIssue s
  | .getStatus => Sys2Proof.Machine.execGetStatus s
  | .openGate => Sys2Proof.Machine.execOpenGate s
  | .closeGate => Sys2Proof.Machine.execCloseGate s
  | .warmReset => Sys2Proof.Machine.execWarmReset s
  | .setReservation => Sys2Proof.Machine.execSetReservation s
  | .readRemap => Sys2Proof.Machine.execReadRemap s
  | .findRemap => Sys2Proof.Machine.execFindRemap s
  | .installEntry => Sys2Proof.Machine.execInstallEntry s
  | .dropEntry => Sys2Proof.Machine.execDropEntry s
  | .readPool => Sys2Proof.Machine.execReadPool s
  | .markSpareDead => Sys2Proof.Machine.execMarkSpareDead s
  | .setLowWater => Sys2Proof.Machine.execSetLowWater s
  | .spareRow => Sys2Proof.Machine.execSpareRow s
  | .abortMigration => Sys2Proof.Machine.execAbortMigration s
  | .readWatch => Sys2Proof.Machine.execReadWatch s
  | .clearWatch => Sys2Proof.Machine.execClearWatch s
  | .setThresholds => Sys2Proof.Machine.execSetThresholds s
  | .setRegion => Sys2Proof.Machine.execSetRegion s
  | .readRegion => Sys2Proof.Machine.execReadRegion s
  | .start => Sys2Proof.Machine.execStart s
  | .stop => Sys2Proof.Machine.execStop s
  | .setInterval => Sys2Proof.Machine.execSetInterval s
  | .setCursor => Sys2Proof.Machine.execSetCursor s
  | .setInject => Sys2Proof.Machine.execSetInject s
  | .clearInject => Sys2Proof.Machine.execClearInject s
  | .readFault => Sys2Proof.Machine.execReadFault s
  | .popFault => Sys2Proof.Machine.execPopFault s
  | .readCounters => Sys2Proof.Machine.execReadCounters s
  | .clearCounters => Sys2Proof.Machine.execClearCounters s
  | .setAlertMask => Sys2Proof.Machine.execSetAlertMask s
  | .unknownCommand code => Sys2Proof.Machine.execUnknownCommand code s
  | .commandOverrun code => Sys2Proof.Machine.execCommandOverrun code s
  | .eventFlagWrite which value => Sys2Proof.Machine.execEventFlagWrite which value s
  | .pointerWrite value => Sys2Proof.Machine.execPointerWrite value s
  | .registerWrite value => Sys2Proof.Machine.execRegisterWrite value s
  | .linkUp => Sys2Proof.Machine.execLinkUp s
  | .registerRead => Sys2Proof.Machine.execRegisterRead s
  | .addressByte address read => Sys2Proof.Machine.execAddressByte address read s

end Sys2Proof.Machine
end

