-- ==== Sys2Proof/Machine/Step.lean ====
section
/-! DEFINITION. One step of the part: the command at the front of its queue, or one microsecond of its time base. -/

namespace Sys2Proof.Machine

/-- The front command runs on the queue's rest; on an empty queue one microsecond passes (LOG 1). -/
def step (s : State) : Host.Outcome State Fault Refusal :=
  match s.pending with
  | [] => .next { s with us := s.us + 1 }
  | c :: rest => exec c { s with pending := rest }

/-- The command that a word spells put at the front of the queue; no row of the table gives bits, so no word spells one. -/
def State.withFetchWord (s : State) (nbits w : Nat) : State :=
  match decodeTableWord nbits w with
  | none => s
  | some c => { s with pending := c :: s.pending }

end Sys2Proof.Machine
end

