-- ==== Sys2Proof/Safety.lean ====
section
/-! DEFINITION. The notions the statements are made of: when a command can be taken and how it ends; the layouts of chapter 12, written
here apart from the model's own (Formats.lean), so that a statement says them; what a read and a set of answers leave; and the laws
of the part's state that every step keeps. -/

namespace Sys2Proof.Machine

/-! ### Commands -/

/-- The command of `code` can be taken with parameters `p`: no command is in progress and PARAM holds `p`, or this very command
was started with `p` latched and waits to be taken (R175; LOG 4). -/
def State.takes (s : State) (code : Byte) (p : Params) : Prop :=
  (s.mgmt.running = none ∧ s.mgmt.param = p)
    ∨ (s.mgmt.running = some { code := code, params := p, taken := false } ∧ s.mgmt.command = code)

/-- The state in which the command is being taken: its code in COMMAND, RESULT BUSY (R175). -/
def State.busy (s : State) (code : Byte) (p : Params) : State :=
  { s with mgmt := { s.mgmt with command := code, running := some { code := code, params := p, taken := false } } }

/-- The state after the command has completed with a result and no other effect: COMMAND holds its code, RESULT its result, no
command is in progress (R175). -/
def State.finished (s : State) (code : Byte) (r : ResultCode) : State :=
  { s with mgmt := { s.mgmt with command := code, result := r, running := none } }

/-- No injection slot matches a read, so none counts it and none fires (R120). -/
def State.uninjected (s : State) (origin : Origin) (line : Nat) : Prop :=
  ∀ k : Fin 4, s.inject[k].matchesRead s.remap.s origin line = false

/-! ### Layouts, as chapter 12 writes them -/

/-- Two bytes, little-endian (R178). -/
def twoBytes (n : Nat) : List Byte := [BitVec.ofNat 8 n, BitVec.ofNat 8 (n / 256)]

/-- Four bytes, little-endian (R178). -/
def fourBytes (n : Nat) : List Byte :=
  [BitVec.ofNat 8 n, BitVec.ofNat 8 (n / 256), BitVec.ofNat 8 (n / 65536), BitVec.ofNat 8 (n / 16777216)]

/-- The code of a source: the spare index, or 0x80 for ORIGINAL (R179). -/
def sourceByte : Source → Byte
  | .original => 0x80
  | .spare k => BitVec.ofNat 8 k

/-- The code of a sparing cause (R180). -/
def causeByte : SpareCause → Byte
  | .budget => 0
  | .ue => 1
  | .command => 2

/-- The code of an abort reason (R180). -/
def reasonByte : AbortReason → Byte
  | .command => 0
  | .warmReset => 1
  | .mediaFailed => 2
  | .mediaTimeout => 3
  | .restartLimit => 4
  | .poolEmpty => 5

/-- The code of a result (R175). -/
def resultCode : ResultCode → Byte
  | .ok => 0x00
  | .queued => 0x01
  | .badParam => 0x02
  | .wrongState => 0x03
  | .full => 0x04
  | .empty => 0x05
  | .notFound => 0x06
  | .duplicate => 0x07
  | .badOrder => 0x08

/-- STATUS0: the gate in bits 0 and 1, the media port in bit 2, the engine in bits 3 and 4, the patrol in bits 5 to 7 (R173). -/
def State.statusLayout (s : State) : Byte :=
  BitVec.ofNat 8
    ((match s.ctl.gate with
      | .closed => 0
      | .opened => 1
      | .quiescing => 2)
    + (if s.media.failed then 4 else 0)
    + 8 * (match s.engine with
      | none => 0
      | some c =>
        match c.state with
        | .waitSlot => 1
        | .reading => 2
        | .writing => 3)
    + 32 * (match s.patrol.state with
      | .stopped => 0
      | .waiting => 1
      | .reading => 2
      | .writingBack => 3
      | .stopping _ => 4))

/-- DATA 0 to 30 of the status readout; DATA 10 to 20 are zero while the engine is IDLE (R179). -/
def State.statusReadout (s : State) : List Byte :=
  [s.statusLayout, BitVec.ofNat 8 s.ctl.irq.length, BitVec.ofNat 8 s.ctl.g, BitVec.ofNat 8 s.ctl.p,
    BitVec.ofNat 8 (s.ctl.irq.filter fun e => e.state = .held).length, BitVec.ofNat 8 s.media.timeouts,
    BitVec.ofNat 8 (s.media.slots.toList.filter fun m => m.work ≠ none).length, BitVec.ofNat 8 s.remap.s,
    BitVec.ofNat 8 s.srq.length, BitVec.ofNat 8 s.log.records.length]
  ++ (match s.engine with
    | none => [0, 0, 0, 0, 0, 0, 0, 0, 0, 0, 0]
    | some c =>
      [BitVec.ofNat 8 c.entrySlot, sourceByte c.source, BitVec.ofNat 8 c.dest, BitVec.ofNat 8 c.cursor,
        BitVec.ofNat 8 c.restarts, causeByte c.cause, BitVec.ofNat 8 c.poisoned] ++ fourBytes c.startTime.toNat)
  ++ fourBytes s.patrol.cursor ++ twoBytes s.patrol.interval ++ fourBytes s.patrol.sweepReads

/-- The remap entry readout of a slot: zero from byte 3 on, and state 0, for a FREE slot (R179). -/
def State.remapReadout (s : State) (slot : Nat) : List Byte :=
  twoBytes slot
  ++ match s.remap.entryAt slot with
    | none => [0, 0, 0, 0, 0, 0, 0, 0, 0, 0, 0, 0]
    | some e =>
      [match e.state with
        | .migrating _ => 1
        | .active => 2,
        BitVec.ofNat 8 e.bank]
      ++ twoBytes e.row
      ++ [BitVec.ofNat 8 e.dest,
        match e.state with
        | .migrating source => sourceByte source
        | .active => 0xFF,
        match e.origin with
        | .migrated => 0
        | .installed => 1,
        BitVec.ofNat 8 e.generation]
      ++ fourBytes e.time.toNat

/-- The two bits of a spare in the pool readout: 0 FREE, 1 ASSIGNED, 2 DEAD; 0 at or above S (R179). -/
def Remap.spareCode (r : Remap) (bank k : Nat) : Nat :=
  if r.s ≤ k then 0
  else
    match r.spareState bank k with
    | .free => 0
    | .assigned => 1
    | .dead => 2

/-- The pool readout of a bank (R179). -/
def State.poolReadout (s : State) (bank : Nat) : List Byte :=
  [BitVec.ofNat 8 bank, BitVec.ofNat 8 s.remap.s, BitVec.ofNat 8 s.remap.lowWater,
    BitVec.ofNat 8 ((List.range s.remap.s).filter fun k => s.remap.spareState bank k = .free).length,
    BitVec.ofNat 8 ((List.range s.remap.s).filter fun k => s.remap.spareState bank k = .assigned).length,
    BitVec.ofNat 8 ((List.range s.remap.s).filter fun k => s.remap.spareState bank k = .dead).length,
    match (List.range s.remap.s).find? fun k => s.remap.spareState bank k = .free with
    | none => 0xFF
    | some k => BitVec.ofNat 8 k]
  ++ (List.range 16).map fun j =>
    BitVec.ofNat 8 (s.remap.spareCode bank (4 * j) + 4 * s.remap.spareCode bank (4 * j + 1)
      + 16 * s.remap.spareCode bank (4 * j + 2) + 64 * s.remap.spareCode bank (4 * j + 3))

/-- The code of the standing of a physical row: 0 original row in use, 1 original row out of use, 2 migration source, 3 spare in
use, 4 unassigned spare (R11, R179). -/
def Remap.standingCode (r : Remap) (bank row : Nat) : Byte :=
  if row < 32768 - r.s then
    match r.table.find? fun x => x.2.bank = bank ∧ x.2.row = row with
    | none => 0
    | some x => if x.2.state = .migrating .original then 2 else 1
  else if r.table.any fun x => x.2.bank = bank ∧ x.2.dest = row - (32768 - r.s) then 3
  else if r.table.any fun x => x.2.bank = bank ∧ x.2.state = .migrating (.spare (row - (32768 - r.s))) then 2
  else 4

/-- The watch entry readout (R179). -/
def State.watchReadout (s : State) (index : Nat) (e : WatchEntry) : List Byte :=
  [BitVec.ofNat 8 index, BitVec.ofNat 8 s.watch.entries.length, BitVec.ofNat 8 e.bank] ++ twoBytes e.row ++ twoBytes e.logical
  ++ [BitVec.ofNat 8 e.threshold, BitVec.ofNat 8 e.budget, BitVec.ofNat 8 e.errors] ++ fourBytes e.time.toNat
  ++ [s.remap.standingCode e.bank e.row, BitVec.ofNat 8 s.watch.thresholds[0], BitVec.ofNat 8 s.watch.thresholds[1],
    BitVec.ofNat 8 s.watch.thresholds[2], BitVec.ofNat 8 s.watch.thresholds[3]]
  ++ twoBytes s.watch.period

/-- The code of a kind in bits 0 to 4 of byte 2 of a record, with its severity in bits 5 and 6 (R161, R180). -/
def kindByte : FaultKind → Nat
  | .ceUpstream => 0x01 + 32
  | .cePatrol => 0x02 + 32
  | .ceCopy => 0x03 + 32
  | .ueUpstream => 0x04 + 64
  | .uePatrol => 0x05 + 64
  | .ueCopy => 0x06 + 64
  | .budgetExhausted => 0x07 + 64
  | .spareStarted => 0x08
  | .spareDone => 0x09
  | .spareAborted => 0x0A + 64
  | .spareRefused => 0x0B + 64
  | .spareRequestLost => 0x0C + 64
  | .migrationRestart => 0x0D + 64
  | .mediaTimeout => 0x0E + 64
  | .mediaFailed => 0x0F + 96
  | .protocol => 0x10
  | .range => 0x11

/-- The code of a record's origin (R180). -/
def originCode : Origin → Nat
  | .upstream => 0
  | .patrol => 1
  | .copy => 2
  | .fallback => 3
  | .command => 4
  | .engine => 5
  | .link => 6

/-- A fault record as READ_FAULT places it: 16 bytes; absent fields read 0 and their presence bits are clear (R180). -/
def FaultRecord.layout (r : FaultRecord) : List Byte :=
  let o := r.body
  twoBytes r.seq.toNat
  ++ [BitVec.ofNat 8 (kindByte o.kind + if o.injected then 128 else 0),
    BitVec.ofNat 8 (originCode o.origin + (if o.line = none then 0 else 8)
      + (match o.phys with
        | none => 0
        | some a => if a.column = none then 16 else 16 + 32)
      + if o.slot = none then 0 else 64)]
  ++ fourBytes o.time.toNat
  ++ (match o.line with
    | none => [0, 0, 0, 0]
    | some l => fourBytes l)
  ++ (match o.phys with
    | none => [0, 0]
    | some a => twoBytes (a.row % 32768))
  ++ [match o.slot with
    | none => 0
    | some n => BitVec.ofNat 8 n,
    o.detail]

/-! ### Slots and reads -/

/-- A slot of the Media Operation Table FREE, with its epoch kept (R128). -/
def State.freed (s : State) (i : SlotNo) : State :=
  { s with media := { s.media with slots := s.media.slots.set i.toNat { epoch := (s.slot i).epoch, work := none } i.isLt } }

/-- A slot with this work, its epoch kept (R128). -/
def State.given (s : State) (i : SlotNo) (w : Work) : State :=
  { s with media := { s.media with slots := s.media.slots.set i.toNat { epoch := (s.slot i).epoch, work := some w } i.isLt } }

/-- Operations placed on the media port, behind those placed before (R127). -/
def State.placed (s : State) (ops : List MediaOp) : State :=
  { s with media := { s.media with out := s.media.out ++ ops } }

/-- The delivered outcome of the read that a slot's work holds, from its stored line and the injection slots it fires (R122). -/
def State.outcomeOf (s : State) (origin : Origin) (w : Work) (line : StoredLine) : ReadOutcome :=
  deliver (classify line).1 (s.firedBy origin w.line)

/-- The state after an accepted read has been counted and dispatched: consecutive timeouts 0 (R138), the matches counted by the
injection slots (R121), the outcome dispatched with its facts (R79). -/
def State.dispatched (s : State) (w : Work) (line : StoredLine) (origin : Origin) (held : Bool) (detail : Byte) : State :=
  (State.countMatches { s with media := { s.media with timeouts := 0 } } origin w.line).dispatch
    { origin := origin, line := w.line, addr := w.target, real := (classify line).1, delivered := s.outcomeOf origin w line,
      held := held, detail := detail }

/-- Whether an outcome leaves sound data (R76). -/
def soundOutcome : ReadOutcome → Bool
  | .clean => true
  | .corrected => true
  | .uncorrectable => false
  | .poison => false

/-! ### Entries answered together (R85, R154) -/

/-- Whether the entry at place `x.2` of a queue stays when the entries that `asks` selects are answered: it, or an older entry of
its line, is one that is not answered. -/
def stays (asks : IrqEntry → Bool) (queue : List IrqEntry) (x : IrqEntry × Nat) : Bool :=
  (queue.take (x.2 + 1)).any fun y => y.line == x.1.line && !asks y

/-- The entries that stay, in arrival order. -/
def staying (asks : IrqEntry → Bool) (queue : List IrqEntry) : List IrqEntry :=
  (queue.zipIdx.filter fun x => stays asks queue x).map (·.1)

/-- The entries that are answered, in arrival order. -/
def answered (asks : IrqEntry → Bool) (queue : List IrqEntry) : List IrqEntry :=
  (queue.zipIdx.filter fun x => !stays asks queue x).map (·.1)

/-- The failing answer to an entry: READ_FAIL for a LINE_READ, WRITE_RESPONSE FAIL for a write or merge (R142). -/
def IrqEntry.failed (e : IrqEntry) (cause : FailCause) : CtlMsg :=
  match e.kind with
  | .read => .readFail e.tag cause
  | .write _ => .writeResponse e.tag (some cause)
  | .merge _ _ => .writeResponse e.tag (some cause)

/-! ### Timeouts (R135 to R138) -/

/-- The origin of the phase that a slot's work holds (R137). -/
def phaseOrigin (w : Work) : Origin :=
  match w.owner with
  | .copy => .copy
  | .patrol => .patrol
  | .upstream _ _ => if w.phase = .fallbackRead then .fallback else .upstream

/-- A phase's timeout before its owner is told: the time base at the deadline (LOG 2), the slot FREE with its epoch advanced,
MEDIA_TIMEOUTS counted, the consecutive timeouts one up, and the MEDIA_TIMEOUT record with the target of the lowest leg still
outstanding (R135, R137). -/
def State.timedOut (s : State) (i : SlotNo) (w : Work) : State :=
  let t : State :=
    { s with
      us := max s.us (w.start + 50)
      media := { s.media with
        slots := s.media.slots.set i.toNat { epoch := (s.slot i).epoch + 1, work := none } i.isLt
        timeouts := min (s.media.timeouts + 1) 4 }
      counters := (s.count .mediaTimeouts).counters }
  let target : PhysAddr :=
    if w.leg0 then w.target
    else
      match w.target2 with
      | none => w.target
      | some second => second
  t.offerRecord
    { kind := .mediaTimeout, time := t.now, origin := phaseOrigin w, injected := false, line := some w.line,
      phys := some { bank := target.bank, row := target.row, column := some target.column },
      slot := (s.remap.find (bankOf w.line) (rowOf w.line)).map (·.1), detail := BitVec.ofNat 8 i.toNat }

/-- The entry into FAILED after the timeout of slot `i` (R138): the MEDIA_FAILED record and flag; a migration aborted with MEDIA_FAILED;
the patrol STOPPED; every entry that is not ISSUED and has no older entry of its line left answered with MEDIA_FAILED (R154; LOG 26), and
a QUIESCING gate closed on an empty queue (R155). -/
def State.portFailed (s : State) (i : SlotNo) : State :=
  let failed : State := { s with media := { s.media with failed := true } }
  let told := failed.offerRecord
    { kind := .mediaFailed, time := s.now, origin := .engine, injected := false, line := none, phys := none, slot := none,
      detail := BitVec.ofNat 8 i.toNat }
  let flagged : State := { told with flags := told.flags ||| 0x0080 }
  let t :=
    match s.engine with
    | none => flagged
    | some _ => flagged.abort .mediaFailed
  let waits (e : IrqEntry) : Bool :=
    match e.state with
    | .issued _ => false
    | .waiting => true
    | .held => true
  let kept := staying waits t.ctl.irq
  let gone := answered waits t.ctl.irq
  let closes := t.ctl.gate = .quiescing ∧ kept = []
  { t with
    patrol := { t.patrol with state := .stopped, due := false, cancel := false, timer := none }
    ctl := { t.ctl with
      irq := kept, p := t.ctl.p + gone.length, out := t.ctl.out ++ gone.map (·.failed .mediaFailed),
      gate := if closes then .closed else t.ctl.gate }
    flags := if closes then t.flags ||| 0x0200 else t.flags }

/-! ### Laws of the state -/

/-- Occupancy, credits held and credits pending sum to 32 (R143). -/
def State.creditsSum (s : State) : Prop := s.ctl.irq.length + s.ctl.g + s.ctl.p = 32

/-- The Inbound Request Queue: tags are unique (R148), a CLOSED gate has an empty queue (R155), and an ISSUED entry has no older
unretired entry of its line, so one line has at most one request at work (R150, R151). -/
structure Ctl.Ok (c : Ctl) : Prop where
  tags_unique : (c.irq.map IrqEntry.tag).Nodup
  closed_empty : c.gate = .closed → c.irq = []
  issued_first : c.irq.Pairwise fun older e => e.state.isIssued = true → older.line ≠ e.line

/-- The fault log holds at most 32 records, and their sequence numbers run consecutively, modulo 65,536, from head to tail, the
next sequence number one above the last (R162). -/
structure Log.Ok (l : Log) : Prop where
  few : l.records.length ≤ 32
  consecutive : ∀ i (h : i < l.records.length), l.records[i].seq + BitVec.ofNat 16 (l.records.length - i) = l.nextSeq

/-- The Watch List holds at most 64 entries, no two of one physical row; a budget is 1 to threshold − 1, a threshold at most
255, an error count at most 255 (R89); the four classes are 1 to 255 (R91). -/
structure Watch.Ok (w : Watch) : Prop where
  few : w.entries.length ≤ 64
  rows_unique : (w.entries.map fun e => (e.bank, e.row)).Nodup
  budgets : ∀ e ∈ w.entries, 1 ≤ e.budget ∧ e.budget < e.threshold ∧ e.threshold ≤ 255 ∧ e.errors ≤ 255
  classes : ∀ i : Fin 4, 1 ≤ w.thresholds[i] ∧ w.thresholds[i] ≤ 255

/-- The limits are in non-decreasing order, and none is above 32,768 (R15). -/
structure RegionsOk (r : Vector Region 8) : Prop where
  ordered : ∀ i j : Fin 8, i ≤ j → r[i].limit ≤ r[j].limit
  bounded : ∀ i : Fin 8, r[i].limit ≤ 32768

/-- The Sparing Request Queue: at most 8 requests, no two of one logical row, none of the row that is MIGRATING (R46). -/
structure State.QueueOk (s : State) : Prop where
  few : s.srq.length ≤ 8
  rows_unique : (s.srq.map fun r => (r.bank, r.row)).Nodup
  not_migrating : ∀ r ∈ s.srq, ∀ x ∈ s.remap.table, x.2.isMigrating = true → ¬(x.2.bank = r.bank ∧ x.2.row = r.row)

/-- The Remap Table and the Migration Engine: slots 0 to 255 in rising order, no two entries of one key (R26); the engine is
IDLE exactly when no entry is MIGRATING, and otherwise its context names the one MIGRATING entry, with its source and its
destination (R52). -/
structure State.TableOk (s : State) : Prop where
  slots_rise : s.remap.table.Pairwise fun x y => x.1 < y.1
  slots_bound : ∀ x ∈ s.remap.table, x.1 < 256
  keys_unique : s.remap.table.Pairwise fun x y => ¬(x.2.bank = y.2.bank ∧ x.2.row = y.2.row)
  idle : s.engine = none → ∀ x ∈ s.remap.table, x.2.state = .active
  context : ∀ c, s.engine = some c → ∃ e, (c.entrySlot, e) ∈ s.remap.table ∧ e.state = .migrating c.source ∧ e.dest = c.dest
  alone : ∀ c, s.engine = some c → ∀ x ∈ s.remap.table, x.2.isMigrating = true → x.1 = c.entrySlot

/-- Whether an entry holds a spare of its bank: as its destination, or as the source of its migration (R30). -/
def RemapEntry.holds (e : RemapEntry) (bank k : Nat) : Prop := e.bank = bank ∧ (e.dest = k ∨ e.state = .migrating (.spare k))

/-- The ASSIGNED spares of a bank are exactly the destinations of its entries and the source spare of a MIGRATING re-spare
(R30); no two entries name one spare, and no entry is its own source (R26). -/
structure Remap.SparesOk (r : Remap) : Prop where
  assigned : ∀ bank k, r.spareState bank k = .assigned ↔ ∃ x ∈ r.table, x.2.holds bank k
  apart : r.table.Pairwise fun x y => ∀ bank k, ¬(x.2.holds bank k ∧ y.2.holds bank k)
  moved : ∀ x ∈ r.table, x.2.state ≠ .migrating (.spare x.2.dest)

/-- Every counter lies between 0 and 65,535 (R166). -/
def State.countersOk (s : State) : Prop := ∀ i : Fin 18, s.counters[i] ≤ 65535

/-- The alert mask enables no position that names no flag (R171). -/
def State.maskOk (s : State) : Prop := s.mask &&& ~~~flagPositions = 0

end Sys2Proof.Machine
end

