-- ==== Sys2Proof/Certificates/Slice0/Obligations.lean ====
section
/-! DEFINITION. The statements for the provers. `s.takes code p` (Safety.lean) says that the command of `code` can be taken with
parameters `p`; that an idle mailbox takes it in the step that writes COMMAND is the model's choice (LOG 4). `s.finished code r` is
`s` after that command completed with result `r`. Output records such as `ctl.out` are the model's (LOG 12). -/

open Sys2Proof Sys2Proof.Machine

/-! ### The queue of commands, reset, and the register window -/

/-- A step takes the command at the front of the queue and runs it on the queue's rest. The model's choice (LOG 1): a step on an
empty queue is one microsecond of the time base, and nothing else. -/
def Obligations.StepRunsTheFrontCommandOrTicks : Prop :=
  (∀ (c : Instr) (rest : List Instr) (s : State), s.pending = c :: rest → step s = exec c { s with pending := rest })
  ∧ (∀ s : State, s.pending = [] → step s = .next { s with us := s.us + 1 })

/-- The part never stops: every command answers a next state in every state. Where the spec is silent this is the model's choice: a
row whose event cannot happen in a state leaves that state as it is (LOG 3), and COMMAND_OVERRUN with no command BUSY is the COMMAND
write that it is (LOG 24). -/
def Obligations.EveryCommandAnswersANextState : Prop :=
  ∀ (c : Instr) (s : State), ∃ t, exec c s = .next t

/-- COLD_RESET puts every block in its initial state and samples the straps (R18, R29, R35, R46, R52, R90, R106, R119, R128,
R138, R155, R165, R166, R168, R172, R173). The link is down until link-up (LOG 8); the bus is idle (LOG 19); the model's own two
fields go on (LOG 24). -/
def Obligations.ColdResetGivesTheInitialState : Prop :=
  ∀ (spr : BitVec 3) (ma : BitVec 2) (s : State),
    exec (.coldReset spr ma) s = .next
      { us := 0
        remap :=
          { s := if spr = 0 then 0 else if spr = 1 then 8 else if spr = 2 then 16 else if spr = 3 then 32 else 64
            table := [], spares := [], lowWater := 2 }
        regions := Vector.replicate 8
          { limit := 0
            policy := { scrub := false, autospare := false, ueSpare := false, ueResponse := .fail, ceLog := false, cls := 0 } }
        srq := []
        engine := none
        watch := { entries := [], thresholds := #v[8, 16, 32, 64], period := 1000, nextExpiry := some 1000000 }
        patrol :=
          { state := .stopped, cursor := 0, interval := 100, due := false, sweepReads := 0, cancel := false, timer := none }
        inject := Vector.replicate 4
          { armed := false, bank := 0, row := 0, column := .column 0, outcome := .corrected, onUpstream := false,
            onPatrol := false, onCopy := false, mode := .oneShot, n := 0, count := 0 }
        media :=
          { slots := Vector.replicate 16 { epoch := 0, work := none }, failed := false, timeouts := 0, drain := none, out := [] }
        ctl := { linkUp := false, gate := .closed, g := 32, p := 0, irq := [], out := [] }
        log := { records := [], nextSeq := 0 }
        counters := Vector.replicate 18 0
        flags := 0
        mask := 0
        mgmt :=
          { ma := ma, pointer := 0, bus := .idle, ack := false, out := [], param := Vector.replicate 12 0, command := 0,
            result := .ok, running := none, data := Vector.replicate 32 0, dataX := Vector.replicate 9 0 }
        freeCount := s.freeCount
        pending := s.pending }

/-- ADDRESS_BYTE: the port answers 0x38 plus its straps and ignores any other address. POINTER_WRITE: the first data byte of a write
transaction sets the pointer to its value modulo 64. REGISTER_WRITE to PARAM stores the byte, to a read-only register changes no
register; to COMMAND it starts the command, its code stored, PARAM latched and RESULT BUSY, or completes it with BAD_PARAM where the
code names none (LOG 15), or is ignored with CMD_OVERRUN set while a command is BUSY (R175, R176); to FLAGS0 or FLAGS1 it clears the
flags written 1 (R168, R174). In each case the byte is acknowledged and the pointer advances, wrapping after 0x3F (R172, R173). -/
def Obligations.BusBytesSelectAndWriteRegisters : Prop :=
  (∀ (s : State) (address : BitVec 7) (read : Bool) (value : Byte),
    (address.toNat = 0x38 + s.mgmt.ma.toNat →
      exec (.addressByte address read) s =
        .next { s with mgmt := { s.mgmt with bus := if read then .reading else .pointerNext, ack := true } })
    ∧ (address.toNat ≠ 0x38 + s.mgmt.ma.toNat →
      exec (.addressByte address read) s = .next { s with mgmt := { s.mgmt with bus := .idle, ack := false } })
    ∧ (s.mgmt.bus = .pointerNext →
      exec (.pointerWrite value) s =
        .next { s with mgmt := { s.mgmt with pointer := BitVec.ofNat 6 value.toNat, bus := .writing, ack := true } }))
  ∧ (∀ (s : State) (value : Byte), s.mgmt.bus = .writing →
    (∀ k : Fin 12, s.mgmt.pointer.toNat = 0x09 + k.val →
      exec (.registerWrite value) s =
        .next { s with mgmt :=
          { s.mgmt with param := s.mgmt.param.set k.val value, pointer := s.mgmt.pointer + 1, ack := true } })
    ∧ (s.mgmt.pointer.toNat < 0x05 ∨ s.mgmt.pointer.toNat = 0x07 ∨ s.mgmt.pointer.toNat = 0x08 ∨ 0x16 ≤ s.mgmt.pointer.toNat →
      exec (.registerWrite value) s =
        .next { s with mgmt := { s.mgmt with pointer := s.mgmt.pointer + 1, ack := true } }))
  ∧ (∀ (s : State) (value : Byte), s.mgmt.bus = .writing → s.mgmt.pointer = 0x15 →
    (s.mgmt.running = none → 1 ≤ value.toNat → value.toNat ≤ 0x1B →
      exec (.registerWrite value) s = .next
        { s with mgmt :=
          { s.mgmt with
            command := value, running := some { code := value, params := s.mgmt.param, taken := false }, pointer := 0x16
            ack := true } })
    ∧ (s.mgmt.running = none → value.toNat = 0 ∨ 0x1B < value.toNat →
      exec (.registerWrite value) s =
        .next { s with mgmt := { s.mgmt with command := value, result := .badParam, pointer := 0x16, ack := true } })
    ∧ (s.mgmt.running ≠ none →
      exec (.registerWrite value) s =
        .next { s with flags := s.flags ||| 0x0400, mgmt := { s.mgmt with pointer := 0x16, ack := true } }))
  ∧ (∀ (s : State) (value : Byte), s.mgmt.bus = .writing → s.mgmt.pointer = 0x05 ∨ s.mgmt.pointer = 0x06 →
    ∃ t, exec (.registerWrite value) s = .next t
      ∧ t = { s with flags := t.flags, mgmt := { s.mgmt with pointer := s.mgmt.pointer + 1, ack := true } }
      ∧ (t.flag .logNonempty = true ↔ s.log.records ≠ [])
      ∧ ∀ f : Flag, f ≠ .logNonempty → (t.flag f = true ↔
          s.flag f = true ∧ ¬(if s.mgmt.pointer = 0x05 then f.bit < 8 ∧ value.getLsbD f.bit = true
            else 8 ≤ f.bit ∧ value.getLsbD (f.bit - 8) = true)))

/-- REGISTER_READ returns the register at the pointer as it stands, and the pointer advances and wraps (R172): VENDOR, PART and
REVISION, STATUS0 and the count of fault records (R173), the event flags and the alert mask (R169, R174), PARAM, COMMAND, RESULT, BUSY
while a command is in progress (R175), DATA_X and DATA. -/
def Obligations.RegisterReadReturnsTheRegister : Prop :=
  ∀ s : State, s.mgmt.bus = .reading →
    ∃ byte, exec .registerRead s =
        .next { s with mgmt := { s.mgmt with out := s.mgmt.out ++ [byte], pointer := s.mgmt.pointer + 1 } }
      ∧ (∀ k : Fin 12, s.mgmt.pointer.toNat = 0x09 + k.val → byte = s.mgmt.param[k])
      ∧ (∀ k : Fin 32, s.mgmt.pointer.toNat = 0x20 + k.val → byte = s.mgmt.data[k])
      ∧ (∀ k : Fin 9, s.mgmt.pointer.toNat = 0x17 + k.val → byte = s.mgmt.dataX[k])
      ∧ (s.mgmt.pointer = 0x00 → byte = 0xA7)
      ∧ (s.mgmt.pointer = 0x01 → byte = 0x40)
      ∧ (s.mgmt.pointer = 0x02 → byte = 0x10)
      ∧ (s.mgmt.pointer = 0x03 → byte = s.statusLayout)
      ∧ (s.mgmt.pointer = 0x04 → byte = BitVec.ofNat 8 s.log.records.length)
      ∧ (s.mgmt.pointer = 0x05 → ∀ i : Fin 8, byte.getLsbD i.val = s.flagBits.getLsbD i.val)
      ∧ (s.mgmt.pointer = 0x05 → (byte.getLsbD 0 = true ↔ s.log.records ≠ [])
        ∧ ∀ i : Fin 7, byte.getLsbD (1 + i.val) = s.flags.getLsbD (1 + i.val))
      ∧ (s.mgmt.pointer = 0x06 → (∀ i : Fin 3, byte.getLsbD i.val = s.flags.getLsbD (8 + i.val))
        ∧ ∀ i : Fin 5, byte.getLsbD (3 + i.val) = false)
      ∧ (s.mgmt.pointer = 0x07 → ∀ i : Fin 8, byte.getLsbD i.val = s.mask.getLsbD i.val)
      ∧ (s.mgmt.pointer = 0x08 → ∀ i : Fin 8, byte.getLsbD i.val = s.mask.getLsbD (8 + i.val))
      ∧ (s.mgmt.pointer = 0x15 → byte = s.mgmt.command)
      ∧ (s.mgmt.pointer = 0x16 → s.mgmt.running ≠ none → byte = 0xFF)
      ∧ (s.mgmt.pointer = 0x16 → s.mgmt.running = none → byte = resultCode s.mgmt.result)

/-- EVENT_FLAG_WRITE clears, in its own byte alone, each flag whose bit is 1, except LOG_NONEMPTY, which follows the log (R168,
R169, R174). Nothing else changes; that the row moves no pointer is the model's choice (LOG 13). -/
def Obligations.FlagWriteClearsTheWrittenFlags : Prop :=
  ∀ (s : State) (which : FlagByte) (value : Byte), ∃ t, exec (.eventFlagWrite which value) s = .next t
    ∧ t = { s with flags := t.flags }
    ∧ (t.flag .logNonempty = true ↔ s.log.records ≠ [])
    ∧ ∀ f : Flag, f ≠ .logNonempty → (t.flag f = true ↔
        s.flag f = true ∧ ¬(match which with
          | .flags0 => f.bit < 8 ∧ value.getLsbD f.bit = true
          | .flags1 => 8 ≤ f.bit ∧ value.getLsbD (f.bit - 8) = true))

/-- UNKNOWN_COMMAND completes at once with BAD_PARAM, leaves DATA and changes nothing else (R175; that COMMAND holds the code is
the model's reading, LOG 15). COMMAND_OVERRUN is ignored and sets CMD_OVERRUN (R176). That these rows leave the register pointer and
the acknowledgement as they are is the model's choice (LOG 13). -/
def Obligations.UnknownAndOverrunningCommandsAreTurnedAway : Prop :=
  ∀ (s : State) (code : Byte),
    (s.mgmt.running = none → (code.toNat = 0 ∨ 0x1B < code.toNat) →
      exec (.unknownCommand code) s = .next (s.finished code .badParam))
    ∧ (s.mgmt.running ≠ none → exec (.commandOverrun code) s = .next { s with flags := s.flags ||| 0x0400 })

/-! ### Addresses, regions and translation -/

/-- A line address splits into column, bank and logical row, and is recovered from them (R3). -/
def Obligations.LineAddressSplitsAndIsRecovered : Prop :=
  (∀ line : Nat, columnOf line = line % 128 ∧ bankOf line = line / 128 % 16 ∧ rowOf line = line / 2048
      ∧ rowOf line * 2048 + bankOf line * 128 + columnOf line = line)
    ∧ ∀ row bank column : Nat, bank < 16 → column < 128 →
      columnOf (lineOf row bank column) = column ∧ bankOf (lineOf row bank column) = bank ∧ rowOf (lineOf row bank column) = row

/-- Region i governs the logical rows from limit(i − 1) up to limit(i), limit(−1) taken as 0; a row at or above limit(7) is
governed by the default policy of R18 (R16). -/
def Obligations.RegionLimitsDecideThePolicy : Prop :=
  ∀ (s : State) (row : Nat), RegionsOk s.regions →
    (∀ i : Fin 8, (if i.val = 0 then 0 else s.regions[i.val - 1].limit) ≤ row → row < s.regions[i].limit →
      s.policy row = s.regions[i].policy)
    ∧ (s.regions[7].limit ≤ row →
      s.policy row = { scrub := false, autospare := false, ueSpare := false, ueResponse := .fail, ceLog := false, cls := 0 })

/-- Where translation sends a read and a write of a line: the original row with no entry; the destination of an ACTIVE entry;
for a MIGRATING entry, below the cursor a read goes to the destination with the source as fallback and a write to both, and at or
above the cursor both go to the source (R8, R12, R57). -/
def Obligations.TranslationFollowsTheRemapTable : Prop :=
  ∀ (s : State) (row bank column : Nat), bank < 16 → column < 128 →
    let line := lineOf row bank column
    let home : PhysAddr := { bank := bank, row := row, column := column }
    (s.remap.find bank row = none → s.translateRead line = (home, none) ∧ s.translateWrite line = (home, none))
    ∧ ∀ slot e, s.remap.find bank row = some (slot, e) →
      let dest : PhysAddr := { bank := bank, row := 32768 - s.remap.s + e.dest, column := column }
      (e.state = .active → s.translateRead line = (dest, none) ∧ s.translateWrite line = (dest, none))
      ∧ ∀ source c, e.state = .migrating source → s.engine = some c →
        let from_ : PhysAddr :=
          { bank := bank, column := column
            row := match source with
              | .original => row
              | .spare k => 32768 - s.remap.s + k }
        (column < c.cursor → s.translateRead line = (dest, some from_) ∧ s.translateWrite line = (from_, some dest))
        ∧ (c.cursor ≤ column → s.translateRead line = (from_, none) ∧ s.translateWrite line = (from_, none))

/-- SET_REGION: BAD_PARAM for a refused value, BAD_ORDER for a limit outside its neighbours', else the region's limit and its six
attributes are replaced at once; nothing else changes (R21, R22). -/
def Obligations.SetRegionChecksThenReplaces : Prop :=
  ∀ (s : State) (p : Params), s.takes codeSetRegion p →
    let i := paramByte p 0
    let limit := paramHalf p 1
    let valid := i ≤ 7 ∧ limit ≤ 32768 ∧ paramByte p 3 ≤ 1 ∧ paramByte p 4 ≤ 1 ∧ paramByte p 5 ≤ 1 ∧ paramByte p 6 ≤ 1
      ∧ paramByte p 7 ≤ 1 ∧ paramByte p 8 ≤ 3
    let lower := if i = 0 then 0 else ((s.regions.toList[i - 1]?).map Region.limit).getD 0
    let upper := if i = 7 then 32768 else ((s.regions.toList[i + 1]?).map Region.limit).getD 0
    (¬valid → exec .setRegion s = .next (s.finished codeSetRegion .badParam))
    ∧ (valid → limit < lower ∨ upper < limit → exec .setRegion s = .next (s.finished codeSetRegion .badOrder))
    ∧ (valid → lower ≤ limit → limit ≤ upper →
      exec .setRegion s = .next (State.finished
        { s with regions := (s.regions.setIfInBounds i
            { limit := limit
              policy :=
                { scrub := paramByte p 3 == 1, autospare := paramByte p 4 == 1, ueSpare := paramByte p 5 == 1
                  ueResponse := if paramByte p 6 = 0 then .poison else .fail, ceLog := paramByte p 7 == 1
                  cls := Fin.ofNat 4 (paramByte p 8) } }) }
        codeSetRegion .ok))

/-- READ_REGION: BAD_PARAM above index 7, else OK with the region's index, bounds, attributes and covered count in DATA (R23). -/
def Obligations.ReadRegionReadsOut : Prop :=
  ∀ (s : State) (p : Params), s.takes codeReadRegion p →
    (7 < paramByte p 0 → exec .readRegion s = .next (s.finished codeReadRegion .badParam))
    ∧ ∀ i : Fin 8, paramByte p 0 = i.val →
      let g := s.regions[i]
      let lower := if i.val = 0 then 0 else s.regions[i.val - 1].limit
      let visible := 32768 - s.remap.s
      exec .readRegion s = .next ((s.putData
        ([BitVec.ofNat 8 i.val] ++ leBytes 2 lower ++ leBytes 2 g.limit
          ++ [if g.policy.scrub then 1 else 0, if g.policy.autospare then 1 else 0, if g.policy.ueSpare then 1 else 0,
            if g.policy.ueResponse = .poison then 0 else 1, if g.policy.ceLog then 1 else 0, BitVec.ofNat 8 g.policy.cls.val]
          ++ leBytes 2 (min g.limit visible - min lower visible))).finished codeReadRegion .ok)

/-! ### Remap Table and pools -/

/-- FIND_REMAP: BAD_PARAM for a bank or row out of range; the readout of READ_REMAP for the entry found; NOT_FOUND where the row
lives in its original physical row (R44). The readout is that of R179. -/
def Obligations.FindRemapAnswersTheEntry : Prop :=
  (∀ (s : State) (p : Params), s.takes codeFindRemap p →
    let bank := paramByte p 0
    let row := paramHalf p 1
    let valid := bank ≤ 15 ∧ row < 32768 - s.remap.s
    (¬valid → exec .findRemap s = .next (s.finished codeFindRemap .badParam))
    ∧ (valid → ∀ slot e, s.remap.find bank row = some (slot, e) →
      exec .findRemap s = .next ((s.putData (s.remapBytes slot)).finished codeFindRemap .ok))
    ∧ (valid → s.remap.find bank row = none →
      exec .findRemap s = .next (s.finished codeFindRemap .notFound)
      ∧ ∀ column, column < 128 →
        (s.translateRead (lineOf row bank column)).1 = { bank := bank, row := row, column := column }))
  ∧ ∀ (s : State) (slot : Nat), s.remapBytes slot = s.remapReadout slot

/-- READ_REMAP and READ_POOL: BAD_PARAM out of range, else OK with the readout in DATA; nothing else changes (R43, R45). In each bank the
FREE, ASSIGNED and DEAD counts add up to S, and the pool is the FREE indices below S in rising order (R30). The readouts are those of
R179: the entry's fields, zero from byte 3 on for a FREE slot; the pool's counts, its lowest FREE index and two bits for each spare. A
readout fills DATA from byte 0, and the bytes beyond its end keep their contents. -/
def Obligations.ReadRemapAndReadPoolReadOut : Prop :=
  (∀ (s : State) (p : Params),
    (s.takes codeReadRemap p →
      (255 < paramHalf p 0 → exec .readRemap s = .next (s.finished codeReadRemap .badParam))
      ∧ (paramHalf p 0 ≤ 255 → exec .readRemap s =
        .next ((s.putData (leBytes 2 (paramHalf p 0) ++ entryBytes (s.remap.entryAt (paramHalf p 0)))).finished
          codeReadRemap .ok)))
    ∧ (s.takes codeReadPool p →
      (15 < paramByte p 0 → exec .readPool s = .next (s.finished codeReadPool .badParam))
      ∧ (paramByte p 0 ≤ 15 →
        exec .readPool s = .next ((s.putData (s.poolBytes (paramByte p 0))).finished codeReadPool .ok))))
  ∧ (∀ (r : Remap) (bank : Nat),
    r.countSpares bank .free + r.countSpares bank .assigned + r.countSpares bank .dead = r.s
    ∧ (r.pool bank).Pairwise (· < ·) ∧ (r.pool bank).length = r.countSpares bank .free
    ∧ ∀ k, k ∈ r.pool bank ↔ k < r.s ∧ r.spareState bank k = .free)
  ∧ (∀ (s : State) (n : Nat),
    leBytes 2 n ++ entryBytes (s.remap.entryAt n) = s.remapReadout n ∧ s.poolBytes n = s.poolReadout n)
  ∧ (∀ (s : State) (bytes : List Byte),
    s.putData bytes = { s with mgmt := { s.mgmt with data := (s.putData bytes).mgmt.data } }
    ∧ ∀ k : Fin 32, (s.putData bytes).mgmt.data[k] = (bytes[k.val]?).getD s.mgmt.data[k])

/-- SET_RESERVATION: BAD_PARAM for a value that is no reservation; WRONG_STATE while the gate is not CLOSED or the table holds an
entry; else S is set, every spare is FREE, and queued requests of rows no longer visible go (R36, R37). -/
def Obligations.SetReservationRebuildsThePools : Prop :=
  ∀ (s : State) (p : Params), s.takes codeSetReservation p →
    let n := paramByte p 0
    let valid := n = 0 ∨ n = 8 ∨ n = 16 ∨ n = 32 ∨ n = 64
    (¬valid → exec .setReservation s = .next (s.finished codeSetReservation .badParam))
    ∧ (valid → s.ctl.gate ≠ .closed ∨ s.remap.table ≠ [] →
      exec .setReservation s = .next (s.finished codeSetReservation .wrongState))
    ∧ (valid → s.ctl.gate = .closed → s.remap.table = [] → ∃ t, exec .setReservation s = .next t
      ∧ t = State.finished { s with remap := t.remap, srq := s.srq.filter fun r => r.row < 32768 - n } codeSetReservation .ok
      ∧ t.remap.s = n ∧ t.remap.table = [] ∧ t.remap.lowWater = s.remap.lowWater
      ∧ ∀ bank k, t.remap.spareState bank k = .free)

/-- INSTALL_ENTRY: the five checks in order; then an ACTIVE entry in the lowest FREE slot, its spare ASSIGNED, and the slot number
in DATA (R39). -/
def Obligations.InstallEntryChecksThenInstalls : Prop :=
  ∀ (s : State) (p : Params), s.takes codeInstallEntry p →
    let bank := paramByte p 0
    let row := paramHalf p 1
    let spare := paramByte p 3
    let valid := bank ≤ 15 ∧ row < 32768 - s.remap.s ∧ spare < s.remap.s
    let key := s.remap.table.any fun x => x.2.bank == bank && x.2.row == row
    let full := ∀ n, n < 256 → ∃ x ∈ s.remap.table, x.1 = n
    (¬valid → exec .installEntry s = .next (s.finished codeInstallEntry .badParam))
    ∧ (valid → s.ctl.gate ≠ .closed → exec .installEntry s = .next (s.finished codeInstallEntry .wrongState))
    ∧ (valid → s.ctl.gate = .closed → key = true → exec .installEntry s = .next (s.finished codeInstallEntry .duplicate))
    ∧ (valid → s.ctl.gate = .closed → key = false → full → exec .installEntry s = .next (s.finished codeInstallEntry .full))
    ∧ (valid → s.ctl.gate = .closed → key = false → ¬full → s.remap.spareState bank spare ≠ .free →
      exec .installEntry s = .next (s.finished codeInstallEntry .wrongState))
    ∧ (valid → s.ctl.gate = .closed → key = false → ¬full → s.remap.spareState bank spare = .free →
      ∃ slot t, exec .installEntry s = .next t
        ∧ slot < 256 ∧ (∀ x ∈ s.remap.table, x.1 ≠ slot) ∧ (∀ n, n < slot → ∃ x ∈ s.remap.table, x.1 = n)
        ∧ t = State.finished
            (State.putData { s with remap := t.remap, flags := t.flags } (leBytes 2 slot)) codeInstallEntry .ok
        ∧ t.remap.s = s.remap.s ∧ t.remap.lowWater = s.remap.lowWater
        ∧ t.remap.entryAt slot = some
            { bank := bank, row := row, dest := spare, state := .active, origin := .installed, generation := 0, time := s.now }
        ∧ (∀ n, n ≠ slot → t.remap.entryAt n = s.remap.entryAt n)
        ∧ t.remap.spareState bank spare = .assigned
        ∧ (∀ b k, ¬(b = bank ∧ k = spare) → t.remap.spareState b k = s.remap.spareState b k)
        ∧ t.flags = s.flags ||| (if s.remap.table.length = 255 then 0x0040 else 0)
            ||| (if (t.remap.pool bank).length < s.remap.lowWater then 0x0020 else 0))

/-- DROP_ENTRY: the four checks in order; then the slot is FREE and the destination spare FREE or DEAD by the fate (R41). -/
def Obligations.DropEntryChecksThenRemoves : Prop :=
  ∀ (s : State) (p : Params), s.takes codeDropEntry p →
    let slot := paramHalf p 0
    let fate := paramByte p 2
    (255 < slot ∨ 1 < fate → exec .dropEntry s = .next (s.finished codeDropEntry .badParam))
    ∧ (slot ≤ 255 → fate ≤ 1 → s.ctl.gate ≠ .closed → exec .dropEntry s = .next (s.finished codeDropEntry .wrongState))
    ∧ (slot ≤ 255 → fate ≤ 1 → s.ctl.gate = .closed → s.remap.entryAt slot = none →
      exec .dropEntry s = .next (s.finished codeDropEntry .notFound))
    ∧ (∀ e, slot ≤ 255 → fate ≤ 1 → s.ctl.gate = .closed → s.remap.entryAt slot = some e → e.isMigrating = true →
      exec .dropEntry s = .next (s.finished codeDropEntry .wrongState))
    ∧ (∀ e, slot ≤ 255 → fate ≤ 1 → s.ctl.gate = .closed → s.remap.entryAt slot = some e → e.isMigrating = false →
      ∃ t, exec .dropEntry s = .next t
        ∧ t = State.finished { s with remap := t.remap } codeDropEntry .ok
        ∧ t.remap.s = s.remap.s ∧ t.remap.lowWater = s.remap.lowWater
        ∧ t.remap.entryAt slot = none ∧ (∀ n, n ≠ slot → t.remap.entryAt n = s.remap.entryAt n)
        ∧ t.remap.spareState e.bank e.dest = (if fate = 0 then .free else .dead)
        ∧ ∀ b k, ¬(b = e.bank ∧ k = e.dest) → t.remap.spareState b k = s.remap.spareState b k)

/-- MARK_SPARE_DEAD: BAD_PARAM out of range; WRONG_STATE for a spare that is not FREE; else the spare is DEAD, it has left the
pool, and the low-water mark is tested (R42, R33). -/
def Obligations.MarkSpareDeadRetiresAFreeSpare : Prop :=
  ∀ (s : State) (p : Params), s.takes codeMarkSpareDead p →
    let bank := paramByte p 0
    let spare := paramByte p 1
    let valid := bank ≤ 15 ∧ spare < s.remap.s
    (¬valid → exec .markSpareDead s = .next (s.finished codeMarkSpareDead .badParam))
    ∧ (valid → s.remap.spareState bank spare ≠ .free →
      exec .markSpareDead s = .next (s.finished codeMarkSpareDead .wrongState))
    ∧ (valid → s.remap.spareState bank spare = .free → ∃ t, exec .markSpareDead s = .next t
      ∧ t = State.finished { s with remap := t.remap, flags := t.flags } codeMarkSpareDead .ok
      ∧ t.remap.s = s.remap.s ∧ t.remap.lowWater = s.remap.lowWater ∧ t.remap.table = s.remap.table
      ∧ t.remap.spareState bank spare = .dead ∧ spare ∉ t.remap.pool bank
      ∧ (∀ b k, ¬(b = bank ∧ k = spare) → t.remap.spareState b k = s.remap.spareState b k)
      ∧ t.flags = s.flags ||| (if (t.remap.pool bank).length < s.remap.lowWater then 0x0020 else 0))

/-- SET_LOW_WATER: BAD_PARAM above 64; else the mark alone is replaced, no bank is tested, and READ_POOL reports it (R34). -/
def Obligations.SetLowWaterReplacesTheMark : Prop :=
  ∀ (s : State) (p : Params), s.takes codeSetLowWater p →
    (64 < paramByte p 0 → exec .setLowWater s = .next (s.finished codeSetLowWater .badParam))
    ∧ (paramByte p 0 ≤ 64 → ∃ t, exec .setLowWater s = .next t
      ∧ t = State.finished { s with remap := { s.remap with lowWater := paramByte p 0 } } codeSetLowWater .ok
      ∧ ∀ bank, (t.poolBytes bank)[2]? = some (BitVec.ofNat 8 (paramByte p 0)))

/-! ### Sparing and migration -/

/-- SPARE_ROW: BAD_PARAM out of range, DUPLICATE for a row that is MIGRATING or queued, FULL with eight requests queued, each without
a record or a count; else QUEUED: the request joins the tail, and the engine takes the head if it may, so that with a migration in
progress or the port FAILED the request waits (R47 to R50). An offer with cause BUDGET or UE: none for a row that is not visible, none
for a row that is MIGRATING or queued; with eight requests queued it is lost, with its SPARE_REQUEST_LOST record and count; else it joins
the tail (R47, R73). -/
def Obligations.SpareRowAnswersTheOffer : Prop :=
  (∀ (s : State) (p : Params), s.takes codeSpareRow p →
    let bank := paramByte p 0
    let row := paramHalf p 1
    let valid := bank ≤ 15 ∧ row < 32768 - s.remap.s
    let known := (∃ x ∈ s.remap.table, x.2.isMigrating = true ∧ x.2.bank = bank ∧ x.2.row = row)
      ∨ ∃ r ∈ s.srq, r.bank = bank ∧ r.row = row
    (¬valid → exec .spareRow s = .next (s.finished codeSpareRow .badParam))
    ∧ (valid → known → exec .spareRow s = .next (s.finished codeSpareRow .duplicate))
    ∧ (valid → ¬known → 8 ≤ s.srq.length → exec .spareRow s = .next (s.finished codeSpareRow .full)))
  ∧ (∀ (s : State) (p : Params), s.takes codeSpareRow p →
    paramByte p 0 ≤ 15 → paramHalf p 1 < 32768 - s.remap.s → s.srq.length < 8 →
    (∀ x ∈ s.remap.table, x.2.isMigrating = true → ¬(x.2.bank = paramByte p 0 ∧ x.2.row = paramHalf p 1)) →
    (∀ r ∈ s.srq, ¬(r.bank = paramByte p 0 ∧ r.row = paramHalf p 1)) →
    exec .spareRow s = .next ((State.engineTake
      { s.busy codeSpareRow p with
        srq := s.srq ++ [{ bank := paramByte p 0, row := paramHalf p 1, cause := .command }] }).finished codeSpareRow .queued)
    ∧ (s.engine ≠ none ∨ s.media.failed = true →
      exec .spareRow s = .next (State.finished
        { s with srq := s.srq ++ [{ bank := paramByte p 0, row := paramHalf p 1, cause := .command }] } codeSpareRow .queued)))
  ∧ (∀ (s : State) (bank row : Nat) (cause : SpareCause),
    let visible := row < 32768 - s.remap.s
    let known := (∃ x ∈ s.remap.table, x.2.isMigrating = true ∧ x.2.bank = bank ∧ x.2.row = row)
      ∨ ∃ r ∈ s.srq, r.bank = bank ∧ r.row = row
    (¬visible ∨ known → s.offerSparing bank row cause = s)
    ∧ (visible → ¬known → 8 ≤ s.srq.length →
      s.offerSparing bank row cause = (s.offerRecord
        { kind := .spareRequestLost, time := s.now, origin := .engine, injected := false, line := some (lineOf row bank 0)
          phys := none, slot := none, detail := causeByte cause }).count .spareRequestsLost)
    ∧ (visible → ¬known → s.srq.length < 8 →
      s.offerSparing bank row cause = State.engineTake { s with srq := s.srq ++ [{ bank := bank, row := row, cause := cause }] }))

/-- SPARE_ROW to an IDLE engine with an empty queue is validated in the same step. It starts a new sparing: the entry MIGRATING in the
lowest FREE slot, the lowest FREE spare ASSIGNED, the context loaded in WAIT_SLOT, SPARE_STARTED written (R28, R49, R50, R53, R73).
Or it is refused, with no slot FREE or the pool empty: SPARE_REFUSED set, counted and recorded, tables and pools as they were (R51).
Whatever offered the head request, the engine takes it so: not outside IDLE and not with the port FAILED (R49); refused with POLICY,
TABLE_FULL or POOL_EMPTY, after which the next head is taken (R50, R51); else a new sparing, or the re-spare of the row's ACTIVE entry
with its former destination as the source; POOL_LOW and TABLE_FULL set where R33 and R27 say. -/
def Obligations.SpareRowStartsOrIsRefused : Prop :=
  (∀ (s : State) (p : Params) (n k : Nat), s.takes codeSpareRow p →
    paramByte p 0 ≤ 15 → paramHalf p 1 < 32768 - s.remap.s → s.srq = [] → s.engine = none → s.media.failed = false →
    s.remap.find (paramByte p 0) (paramHalf p 1) = none → s.remap.freeSlot = some n →
    (s.remap.pool (paramByte p 0)).head? = some k → s.log.records.length < 32 →
    ∃ t, exec .spareRow s = .next t
      ∧ t = State.finished { s with remap := t.remap, engine := t.engine, log := t.log, flags := t.flags } codeSpareRow .queued
      ∧ t.remap.entryAt n = some
          { bank := paramByte p 0, row := paramHalf p 1, dest := k, state := .migrating .original, origin := .migrated
            generation := 0, time := s.now }
      ∧ (∀ m, m ≠ n → t.remap.entryAt m = s.remap.entryAt m)
      ∧ t.remap.spareState (paramByte p 0) k = .assigned
      ∧ t.engine = some
          { state := .waitSlot, entrySlot := n, source := .original, dest := k, cursor := 0, restarts := 0, cause := .command
            startTime := s.now, poisoned := 0 }
      ∧ t.log.records = s.log.records ++
          [{ seq := s.log.nextSeq
             body :=
              { kind := .spareStarted, time := s.now, origin := .engine, injected := false
                line := some (lineOf (paramHalf p 1) (paramByte p 0) 0)
                phys := some { bank := paramByte p 0, row := 32768 - s.remap.s + k, column := none }
                slot := some n, detail := 2 } }])
  ∧ (∀ (s : State) (p : Params), s.takes codeSpareRow p →
    paramByte p 0 ≤ 15 → paramHalf p 1 < 32768 - s.remap.s → s.srq = [] → s.engine = none → s.media.failed = false →
    (∀ x ∈ s.remap.table, x.2.isMigrating = false) → s.log.records.length < 32 →
    (s.remap.find (paramByte p 0) (paramHalf p 1) = none ∧ s.remap.freeSlot = none)
      ∨ s.remap.pool (paramByte p 0) = [] →
    ∃ t, exec .spareRow s = .next t
      ∧ t = State.finished { s with log := t.log, counters := t.counters, flags := t.flags } codeSpareRow .queued
      ∧ t.flags = s.flags ||| 0x0010
      ∧ t.counter .sparesRefused = min (s.counter .sparesRefused + 1) 65535
      ∧ ∃ o, t.log.records = s.log.records ++ [{ seq := s.log.nextSeq, body := o }]
        ∧ o.kind = .spareRefused ∧ o.origin = .engine
        ∧ o.line = some (lineOf (paramHalf p 1) (paramByte p 0) 0)
        ∧ o.detail = (if s.remap.find (paramByte p 0) (paramHalf p 1) = none ∧ s.remap.freeSlot = none then 1 else 2))
  ∧ (∀ s : State, s.engine ≠ none ∨ s.srq = [] ∨ s.media.failed = true → s.engineTake = s)
  ∧ (∀ (s : State) (r : SpareRequest) (rest : List SpareRequest), s.engine = none → s.srq = r :: rest → s.media.failed = false →
    let entry := s.remap.find r.bank r.row
    let policy := r.cause ≠ .command ∧ (s.policy r.row).autospare = false
    let refused (reason : Byte) : State :=
      let told := State.offerRecord { s with srq := rest }
        { kind := .spareRefused, time := s.now, origin := .engine, injected := false, line := some (lineOf r.row r.bank 0)
          phys := none, slot := entry.map (·.1), detail := reason }
      State.count { told with flags := told.flags ||| 0x0010 } .sparesRefused
    let started (n k : Nat) (source : Source) (e : RemapEntry) : Prop :=
      let told := s.offerRecord
        { kind := .spareStarted, time := s.now, origin := .engine, injected := false, line := some (lineOf r.row r.bank 0)
          phys := some { bank := r.bank, row := 32768 - s.remap.s + k, column := none }, slot := some n
          detail := causeByte r.cause }
      let t := s.engineTake
      t = { s with
        remap := t.remap, srq := rest, log := told.log, counters := told.counters
        engine := some
          { state := .waitSlot, entrySlot := n, source := source, dest := k, cursor := 0, restarts := 0, cause := r.cause
            startTime := s.now, poisoned := 0 }
        flags := told.flags ||| (if entry = none ∧ s.remap.table.length = 255 then 0x0040 else 0)
          ||| (if (t.remap.pool r.bank).length < s.remap.lowWater then 0x0020 else 0) }
      ∧ t.remap.s = s.remap.s ∧ t.remap.lowWater = s.remap.lowWater
      ∧ t.remap.entryAt n = some e ∧ (∀ m, m ≠ n → t.remap.entryAt m = s.remap.entryAt m)
      ∧ t.remap.spareState r.bank k = .assigned
      ∧ ∀ b i, ¬(b = r.bank ∧ i = k) → t.remap.spareState b i = s.remap.spareState b i
    (policy → s.engineTake = (refused 0).engineTake)
    ∧ (¬policy → entry = none → s.remap.freeSlot = none → s.engineTake = (refused 1).engineTake)
    ∧ (¬policy → entry ≠ none ∨ s.remap.freeSlot ≠ none → s.remap.pool r.bank = [] → s.engineTake = (refused 2).engineTake)
    ∧ (∀ n k, ¬policy → entry = none → s.remap.freeSlot = some n → (s.remap.pool r.bank).head? = some k →
      started n k .original
        { bank := r.bank, row := r.row, dest := k, state := .migrating .original, origin := .migrated, generation := 0
          time := s.now })
    ∧ (∀ n e k, ¬policy → entry = some (n, e) → s.remap.entryAt n = some e → (s.remap.pool r.bank).head? = some k →
      started n k (.spare e.dest) { e with state := .migrating (.spare e.dest), dest := k, time := s.now }))

/-- ABORT_MIGRATION: WRONG_STATE in IDLE; else the entry reverts, the destination is FREE, HELD entries are released, a copy in
flight becomes an orphan, and the engine is IDLE (R67, R68, R69); then it takes the next request. An abort for any of the six reasons
does so, the destination DEAD after RESTART_LIMIT, and writes SPARE_ABORTED with the reason, of origin COMMAND for COMMAND and
WARM_RESET, else ENGINE (R67, R73). -/
def Obligations.AbortMigrationReverts : Prop :=
  (∀ (s : State) (p : Params), s.takes codeAbortMigration p →
    (s.engine = none → exec .abortMigration s = .next (s.finished codeAbortMigration .wrongState))
    ∧ (s.engine ≠ none → exec .abortMigration s =
      .next ((((s.busy codeAbortMigration p).abort .command).engineTake).finished codeAbortMigration .ok))
    ∧ ∀ c e, s.engine = some c → s.remap.entryAt c.entrySlot = some e → s.srq = [] →
      ∃ t, exec .abortMigration s = .next t
        ∧ t = State.finished
            { s with remap := t.remap, engine := none, media := { s.media with slots := t.media.slots }
                     ctl := { s.ctl with irq := t.ctl.irq }, log := t.log, counters := t.counters, flags := t.flags }
            codeAbortMigration .ok
        ∧ (c.source = .original → t.remap.entryAt c.entrySlot = none)
        ∧ (∀ d, c.source = .spare d →
          t.remap.entryAt c.entrySlot = some { e with state := .active, dest := d, time := s.now })
        ∧ (∀ n, n ≠ c.entrySlot → t.remap.entryAt n = s.remap.entryAt n)
        ∧ t.remap.spareState e.bank c.dest = .free
        ∧ (∀ b k, ¬(b = e.bank ∧ k = c.dest) → t.remap.spareState b k = s.remap.spareState b k)
        ∧ t.ctl.irq = s.ctl.irq.map (fun x => if x.state = .held then { x with state := .waiting } else x)
        ∧ (∀ w, (s.slot background).work = some w → w.owner = .copy →
          (t.slot background).work = some { w with stage := .orphan })
        ∧ (∀ i : SlotNo, i ≠ background → t.slot i = s.slot i))
  ∧ (∀ (s : State) (c : EngineCtx) (e : RemapEntry) (reason : AbortReason), s.engine = some c →
    s.remap.entryAt c.entrySlot = some e →
    let told := s.offerRecord
      { kind := .spareAborted, time := s.now, injected := false, line := some (lineOf e.row e.bank 0)
        origin := if reason = .command ∨ reason = .warmReset then .command else .engine
        phys := some { bank := e.bank, row := 32768 - s.remap.s + c.dest, column := none }, slot := some c.entrySlot
        detail := reasonByte reason }
    let t := s.abort reason
    t = { s with
      remap := t.remap, engine := none, media := { s.media with slots := t.media.slots }
      ctl := { s.ctl with
        irq := (s.ctl.irq.map fun x => if x.state = .held then { x with state := .waiting } else x) }
      log := told.log, counters := told.counters, flags := told.flags }
    ∧ t.remap.s = s.remap.s ∧ t.remap.lowWater = s.remap.lowWater
    ∧ t.remap.entryAt c.entrySlot = (match c.source with
      | .original => none
      | .spare d => some { e with state := .active, dest := d, time := s.now })
    ∧ (∀ n, n ≠ c.entrySlot → t.remap.entryAt n = s.remap.entryAt n)
    ∧ t.remap.spareState e.bank c.dest = (if reason = .restartLimit then .dead else .free)
    ∧ (∀ b k, ¬(b = e.bank ∧ k = c.dest) → t.remap.spareState b k = s.remap.spareState b k)
    ∧ (∀ w, (s.slot background).work = some w → w.owner = .copy →
      t.slot background = { s.slot background with work := some { w with stage := .orphan } })
    ∧ ((∀ w, (s.slot background).work = some w → w.owner ≠ .copy) → t.slot background = s.slot background)
    ∧ ∀ i : SlotNo, i ≠ background → t.slot i = s.slot i)

/-- COPY_READ_ISSUE: with the engine in WAIT_SLOT, no upstream operation on the cursor line, the background slot FREE, and the
port OK and not draining, the copy read goes to the source, the engine is READING, and waiting writes and merges of the line are
HELD (R54, R55, R58). That it is a step of its own is the model's choice (LOG 5). Its completion is dispatched with origin COPY and the
restart count; then, unless the dispatch ended or restarted the migration, the copy write is issued to the destination with the data of
the real outcome, or with a poison marker and one poisoned line more, and the engine is WRITING (R55, R68, R83). The completion of an
orphan is discarded and frees its slot (R68). -/
def Obligations.CopyReadIssuesFromTheSource : Prop :=
  (∀ (s : State) (c : EngineCtx) (e : RemapEntry), s.engine = some c → s.remap.entryAt c.entrySlot = some e →
    c.state = .waitSlot → (∀ i ∈ upstreamSlots, (s.slot i).onLine (lineOf e.row e.bank c.cursor) = false) →
    (s.slot background).work = none → s.media.failed = false → s.media.drain = none →
    let line := lineOf e.row e.bank c.cursor
    let source : PhysAddr :=
      { bank := e.bank, column := c.cursor
        row := match c.source with
          | .original => e.row
          | .spare k => 32768 - s.remap.s + k }
    ∃ t, exec .copyReadIssue s = .next t
      ∧ t = { s with engine := some { c with state := .reading }, media := t.media, ctl := t.ctl }
      ∧ t.media = { s.media with
          slots := t.media.slots, out := s.media.out ++ [.read background (s.slot background).epoch source] }
      ∧ (∀ i : SlotNo, i ≠ background → t.slot i = s.slot i)
      ∧ t.slot background =
          { epoch := (s.slot background).epoch
            work := some
              { stage := .issued, owner := .copy, line := line, phase := .read, target := source, target2 := none, leg0 := true
                leg1 := false, fallback := none, start := s.us } }
      ∧ t.ctl = { s.ctl with irq := (s.ctl.irq.map fun x =>
          if x.state = .waiting ∧ x.kind.writes = true ∧ x.line = line then { x with state := .held } else x) })
  ∧ (∀ (s : State) (w : Work) (leg : Bool) (line : StoredLine), (s.slot background).work = some w → w.owner = .copy →
    w.stage ≠ .orphan → w.phase ≠ .write →
    let real := (classify line).1
    let d := s.dispatched w line .copy false (match s.engine with
      | none => 0
      | some c => BitVec.ofNat 8 c.restarts)
    let next (c : EngineCtx) : EngineCtx :=
      { c with state := .writing, poisoned := if soundOutcome real then c.poisoned else c.poisoned + 1 }
    (∀ c, d.engine = some c → c.state = .reading →
      exec (.readCompletion background (s.slot background).epoch leg line) s = .next
        ((State.given { d with engine := some (next c) } background
          { w with
            stage := .issuedSecond, phase := .write, target := { w.target with row := 32768 - s.remap.s + c.dest }
            target2 := none, leg0 := true, leg1 := false, start := s.us }).placed
          [.write background (s.slot background).epoch false { w.target with row := 32768 - s.remap.s + c.dest }
            (if soundOutcome real then sealLine (classify line).2 else poisonMarker)]))
    ∧ ((∀ c, d.engine = some c → c.state ≠ .reading) →
      exec (.readCompletion background (s.slot background).epoch leg line) s = .next (d.freed background))
    ∧ (s.outcomeOf .copy w line ≠ .corrected → d.engine = s.engine))
  ∧ (∀ (s : State) (i : SlotNo) (w : Work) (leg : Bool) (line : StoredLine), (s.slot i).work = some w → w.stage = .orphan →
    w.phase ≠ .write →
    exec (.readCompletion i (s.slot i).epoch leg line) s = .next
      (State.freed { s with media := { s.media with timeouts := 0 } } i))

/-- The completion of the copy write of line 127 commits: the entry ACTIVE on the destination, MIGRATED, its generation one up;
a source spare DEAD; SPARE_DONE set, recorded and counted; the engine IDLE; then it takes the next request (R49, R56, R62). The
completion of the copy write of a lower line advances the cursor and releases the HELD entries of that line, and the engine waits for
the slot again (R56, R59). -/
def Obligations.LastCopyWriteCommits : Prop :=
  (∀ (s : State) (c : EngineCtx) (e : RemapEntry) (w : Work), s.engine = some c → s.remap.entryAt c.entrySlot = some e →
    c.state = .writing → c.cursor = 127 → s.srq = [] → s.log.records.length < 32 →
    (∀ k, c.source = .spare k → k ≠ c.dest) →
    (s.slot background).work = some w → w.owner = .copy → w.stage = .issuedSecond → w.phase = .write → w.leg0 = true →
    w.leg1 = false →
    ∃ t, exec (.writeCompletion background (s.slot background).epoch false) s = .next t
      ∧ t.engine = none ∧ t.srq = []
      ∧ t.remap.entryAt c.entrySlot = some
          { e with state := .active, dest := c.dest, origin := .migrated, generation := min (e.generation + 1) 255
                   time := s.now }
      ∧ (∀ n, n ≠ c.entrySlot → t.remap.entryAt n = s.remap.entryAt n)
      ∧ (∀ k, c.source = .spare k → t.remap.spareState e.bank k = .dead)
      ∧ (t.slot background).work = none ∧ (t.slot background).epoch = (s.slot background).epoch
      ∧ t.media.timeouts = 0
      ∧ t.flags = s.flags ||| 0x0008
      ∧ t.counter .sparesDone = min (s.counter .sparesDone + 1) 65535
      ∧ ∃ o, t.log.records = s.log.records ++ [{ seq := s.log.nextSeq, body := o }]
        ∧ o.kind = .spareDone ∧ o.detail = BitVec.ofNat 8 c.poisoned
        ∧ o.phys = some { bank := e.bank, row := 32768 - s.remap.s + c.dest, column := none })
  ∧ (∀ (s : State) (c : EngineCtx) (e : RemapEntry) (w : Work), s.engine = some c → s.remap.entryAt c.entrySlot = some e →
    c.state = .writing → (s.slot background).work = some w → w.owner = .copy → w.stage ≠ .orphan → w.phase = .write →
    w.leg0 = true → w.leg1 = false →
    let line := lineOf e.row e.bank c.cursor
    let written : State := State.freed
      { s with
        media := { s.media with timeouts := 0 }
        ctl := { s.ctl with irq := (s.ctl.irq.map fun x =>
          if x.state = .held ∧ x.line = line then { x with state := .waiting } else x) } } background
    (c.cursor ≠ 127 →
      exec (.writeCompletion background (s.slot background).epoch false) s =
        .next { written with engine := some { c with state := .waitSlot, cursor := c.cursor + 1 } })
    ∧ (c.cursor = 127 →
      let told := s.offerRecord
        { kind := .spareDone, time := s.now, origin := .engine, injected := false, line := some (lineOf e.row e.bank 0)
          phys := some { bank := e.bank, row := 32768 - s.remap.s + c.dest, column := none }, slot := some c.entrySlot
          detail := BitVec.ofNat 8 c.poisoned }
      ∃ t : State, exec (.writeCompletion background (s.slot background).epoch false) s = .next t.engineTake
        ∧ t = { written with
            remap := t.remap, engine := none, log := told.log, counters := (told.count .sparesDone).counters
            flags := told.flags ||| 0x0008 }
        ∧ t.remap.s = s.remap.s ∧ t.remap.lowWater = s.remap.lowWater
        ∧ t.remap.entryAt c.entrySlot = some
            { e with state := .active, dest := c.dest, origin := .migrated, generation := min (e.generation + 1) 255
                     time := s.now }
        ∧ (∀ n, n ≠ c.entrySlot → t.remap.entryAt n = s.remap.entryAt n)
        ∧ ∀ b k, t.remap.spareState b k =
            if b = e.bank ∧ c.source = .spare k then .dead else s.remap.spareState b k))

/-- A destination failure: RESTART_LIMIT with three restarts made, POOL_EMPTY with no FREE spare, else a restart from line 0 onto
the lowest FREE spare, the failed destination DEAD (R63, R64, R67); an empty Sparing Request Queue leaves the engine IDLE after
an abort. A restart orphans the copy in flight, releases the HELD entries, is counted and writes MIGRATION_RESTART (R64, R73). What
makes one, and what else an UNCORRECTABLE outcome does: UE_TOTAL counted, its record written, UE_SEEN set; then nothing for a copy read;
an offer with cause UE, where the region has UE_SPARE, for a patrol or fallback read and for an upstream read that held no fallback
target; for one that held it, a destination failure if it read the destination that its row migrates to now, the offer if it read the
row's ACTIVE spare, else nothing (R63, R66, R79 to R83; LOG 18). A POISON outcome is counted alone, a CLEAN one is not. -/
def Obligations.DestinationFailureDecides : Prop :=
  (∀ (s : State) (c : EngineCtx) (e : RemapEntry), s.engine = some c → s.remap.entryAt c.entrySlot = some e → s.srq = [] →
    c.dest ∉ s.remap.pool e.bank →
    let t := s.destinationFailure
    (c.restarts = 3 → t.engine = none ∧ t.remap.spareState e.bank c.dest = .dead)
    ∧ (c.restarts ≠ 3 → s.remap.pool e.bank = [] → t.engine = none ∧ t.remap.spareState e.bank c.dest = .free)
    ∧ (∀ k, c.restarts ≠ 3 → (s.remap.pool e.bank).head? = some k →
      t.engine = some { c with state := .waitSlot, dest := k, cursor := 0, restarts := c.restarts + 1, poisoned := 0 }
      ∧ t.remap.entryAt c.entrySlot = some { e with dest := k }
      ∧ t.remap.spareState e.bank c.dest = .dead ∧ t.remap.spareState e.bank k = .assigned
      ∧ t.counter .migrationRestarts = min (s.counter .migrationRestarts + 1) 65535)
    ∧ ∀ x ∈ t.ctl.irq, x.state ≠ .held)
  ∧ (∀ (s : State) (c : EngineCtx) (e : RemapEntry), s.engine = some c → s.remap.entryAt c.entrySlot = some e →
    (c.restarts = 3 → s.destinationFailure = (s.abort .restartLimit).engineTake)
    ∧ (c.restarts ≠ 3 → s.remap.pool e.bank = [] → s.destinationFailure = (s.abort .poolEmpty).engineTake)
    ∧ ∀ k, c.restarts ≠ 3 → (s.remap.pool e.bank).head? = some k →
      let told := s.offerRecord
        { kind := .migrationRestart, time := s.now, origin := .engine, injected := false, line := some (lineOf e.row e.bank 0)
          phys := some { bank := e.bank, row := 32768 - s.remap.s + c.dest, column := none }, slot := some c.entrySlot
          detail := BitVec.ofNat 8 (c.restarts + 1) }
      let t := s.destinationFailure
      t = { s with
        remap := t.remap, media := { s.media with slots := t.media.slots }
        engine := some { c with state := .waitSlot, dest := k, cursor := 0, restarts := c.restarts + 1, poisoned := 0 }
        ctl := { s.ctl with
          irq := (s.ctl.irq.map fun x => if x.state = .held then { x with state := .waiting } else x) }
        log := told.log, counters := (told.count .migrationRestarts).counters
        flags := told.flags ||| (if (t.remap.pool e.bank).length < s.remap.lowWater then 0x0020 else 0) }
      ∧ t.remap.s = s.remap.s ∧ t.remap.lowWater = s.remap.lowWater
      ∧ t.remap.entryAt c.entrySlot = some { e with dest := k }
      ∧ (∀ n, n ≠ c.entrySlot → t.remap.entryAt n = s.remap.entryAt n)
      ∧ t.remap.spareState e.bank k = .assigned ∧ (c.dest ≠ k → t.remap.spareState e.bank c.dest = .dead)
      ∧ (∀ b i, ¬(b = e.bank ∧ (i = c.dest ∨ i = k)) → t.remap.spareState b i = s.remap.spareState b i)
      ∧ (∀ w, (s.slot background).work = some w → w.owner = .copy →
        t.slot background = { s.slot background with work := some { w with stage := .orphan } })
      ∧ ((∀ w, (s.slot background).work = some w → w.owner ≠ .copy) → t.slot background = s.slot background)
      ∧ ∀ i : SlotNo, i ≠ background → t.slot i = s.slot i)
  ∧ (∀ (s : State) (f : ReadFacts),
    let bank := bankOf f.line
    let row := rowOf f.line
    let told := (s.count .ueTotal).offerRecord
      { time := s.now, origin := f.origin, injected := f.delivered ≠ f.real, line := some f.line
        kind := match f.origin with
          | .patrol => .uePatrol
          | .copy => .ueCopy
          | _ => .ueUpstream
        phys := some { bank := f.addr.bank, row := f.addr.row, column := some f.addr.column }
        slot := (s.remap.find bank row).map (·.1), detail := f.detail }
    let seen : State := { told with flags := told.flags ||| 0x0004 }
    let offered : State := if (s.policy row).ueSpare then seen.offerSparing bank row .ue else seen
    (f.delivered = .clean → s.dispatch f = s)
    ∧ (f.delivered = .poison → s.dispatch f = s.count .poisonReads)
    ∧ (f.delivered = .uncorrectable →
      (f.origin = .copy → s.dispatch f = seen)
      ∧ (f.origin = .patrol ∨ f.origin = .fallback ∨ (f.origin = .upstream ∧ f.held = false) → s.dispatch f = offered)
      ∧ (f.origin = .upstream → f.held = true →
        (s.remap.find bank row = none → s.dispatch f = seen)
        ∧ ∀ n e, s.remap.find bank row = some (n, e) →
          (32768 - s.remap.s + e.dest ≠ f.addr.row → s.dispatch f = seen)
          ∧ (32768 - s.remap.s + e.dest = f.addr.row → e.state = .active → s.dispatch f = offered)
          ∧ (32768 - s.remap.s + e.dest = f.addr.row → e.state ≠ .active → s.dispatch f = seen.destinationFailure))))

/-! ### Outcomes of reads -/

/-- A line written with computed check bytes and not changed reads CLEAN with its data (R75, R76); an intact poison marker reads
POISON with zero data (R77), and a line of zero data is no marker (R74). With one of its 144 symbols changed, a written line reads
CORRECTED with the data as written and a marker UNCORRECTABLE; with two changed, both read UNCORRECTABLE (R75, R77). The code and the
poison constant are free values of the model that meet these guarantees (LOG 9, LOG 10). -/
def Obligations.SealedLinesReadCleanAndMarkersReadPoison : Prop :=
  (∀ data : LineData, classify (sealLine data) = (.clean, data))
    ∧ classify poisonMarker = (.poison, 0)
    ∧ sealLine 0 ≠ poisonMarker
    ∧ (∀ data : LineData, sealLine data = { data := data, check := Config.checkBytes data })
    ∧ poisonMarker = { data := 0, check := Config.checkBytes 0 ^^^ Config.poisonConstant } ∧ Config.poisonConstant ≠ 0
    ∧ (∀ (data : LineData) (i x : Nat), i < 144 → 1 ≤ x → x < 16 →
      classify (changeSymbol (sealLine data) i x) = (.corrected, data)
      ∧ (classify (changeSymbol poisonMarker i x)).1 = .uncorrectable)
    ∧ (∀ (data : LineData) (i x j y : Nat), i < j → j < 144 → 1 ≤ x → x < 16 → 1 ≤ y → y < 16 →
      (classify (changeTwo (sealLine data) i x j y)).1 = .uncorrectable
      ∧ (classify (changeTwo poisonMarker i x j y)).1 = .uncorrectable)

/-- The delivered outcome from the real outcome and the outcomes of the slots that fired, by the table of R122. -/
def Obligations.FiredSlotsWorsenTheDeliveredOutcome : Prop :=
  ∀ (real : ReadOutcome) (fired : List InjectOutcome),
    (fired = [] → deliver real fired = real)
    ∧ (fired ≠ [] → .uncorrectable ∈ fired → deliver real fired = .uncorrectable)
    ∧ (fired ≠ [] → .uncorrectable ∉ fired →
      deliver real fired = match real with
        | .clean => .corrected
        | .corrected => .corrected
        | .uncorrectable => .uncorrectable
        | .poison => .corrected)

/-- A dispatched outcome advances one of three counters by its delivered outcome, whatever its origin, and leaves the other two;
they saturate at 65,535 (R80). -/
def Obligations.DispatchCountsTheDeliveredOutcome : Prop :=
  ∀ (s : State) (f : ReadFacts),
    (s.dispatch f).counter .ceTotal =
      (if f.delivered = .corrected then min (s.counter .ceTotal + 1) 65535 else s.counter .ceTotal)
    ∧ (s.dispatch f).counter .ueTotal =
      (if f.delivered = .uncorrectable then min (s.counter .ueTotal + 1) 65535 else s.counter .ueTotal)
    ∧ (s.dispatch f).counter .poisonReads =
      (if f.delivered = .poison then min (s.counter .poisonReads + 1) 65535 else s.counter .poisonReads)

/-- A charge of a row that has an entry: budget down and error count up, or, at budget 0, the entry removed and the exhaustion
reported with the error count; the time and the logical row are the charge's (R93). A charge of a row without an entry: exhausted
at once under a threshold of 1; a new entry at the tail while there is room (R94); in a full list the oldest entry of the highest budget
gives way if that budget is not below the new one, and is counted in WATCH_EVICTIONS, else the list stays and WATCH_MISSES is counted
(R95). A CORRECTED outcome is counted, charged to the row that was read, and recorded under CE_LOG (R79 to R83); an exhaustion then writes
BUDGET_EXHAUSTED with the error count, and acts by the standing of the row: an original row in use and the home of an ACTIVE entry are
offered with cause BUDGET under AUTOSPARE, the destination of a migration fails, any other row is left (R99 to R101). -/
def Obligations.ChargesSpendTheBudget : Prop :=
  (∀ (s : State) (bank row logical : Nat) (e : WatchEntry), s.watch.Ok → e ∈ s.watch.entries → e.bank = bank → e.row = row →
    (2 ≤ e.budget →
      (s.charge bank row logical).2 = none
      ∧ (s.charge bank row logical).1 = { s with watch := { s.watch with entries :=
          (s.watch.entries.map fun x => if x = e then
            { e with budget := e.budget - 1, errors := min (e.errors + 1) 255, time := s.now, logical := logical } else x) } })
    ∧ (e.budget = 1 →
      (s.charge bank row logical).2 = some (min (e.errors + 1) 255)
      ∧ (s.charge bank row logical).1 = { s with watch := { s.watch with entries := s.watch.entries.filter (· ≠ e) } }))
  ∧ (∀ (s : State) (bank row logical : Nat), (∀ e ∈ s.watch.entries, ¬(e.bank = bank ∧ e.row = row)) →
    let t := s.watch.thresholds[(s.policy logical).cls]
    (t = 1 → s.charge bank row logical = (s, some 1))
    ∧ (2 ≤ t → s.watch.entries.length < 64 →
      s.charge bank row logical =
        ({ s with watch := { s.watch with entries := s.watch.entries ++
            [{ bank := bank, row := row, logical := logical, threshold := t, budget := t - 1, errors := 1, time := s.now }] } },
          none)))
  ∧ (∀ (s : State) (bank row logical : Nat) (before after : List WatchEntry) (top : WatchEntry),
    (∀ e ∈ s.watch.entries, ¬(e.bank = bank ∧ e.row = row)) → 64 ≤ s.watch.entries.length →
    s.watch.entries = before ++ top :: after → (∀ e ∈ before, e.budget < top.budget) → (∀ e ∈ after, e.budget ≤ top.budget) →
    let t := s.watch.thresholds[(s.policy logical).cls]
    2 ≤ t →
    (t - 1 ≤ top.budget → s.charge bank row logical =
      (State.count
        { s with watch := { s.watch with entries := before ++ after ++
            [{ bank := bank, row := row, logical := logical, threshold := t, budget := t - 1, errors := 1, time := s.now }] } }
        .watchEvictions, none))
    ∧ (top.budget < t - 1 → s.charge bank row logical = (s.count .watchMisses, none)))
  ∧ (∀ (s : State) (f : ReadFacts), f.delivered = .corrected →
    let charged := (s.count .ceTotal).charge f.addr.bank f.addr.row (rowOf f.line)
    let record (kind : FaultKind) (detail : Byte) : Offer :=
      { kind := kind, time := s.now, origin := f.origin, injected := f.delivered ≠ f.real, line := some f.line
        phys := some { bank := f.addr.bank, row := f.addr.row, column := some f.addr.column }
        slot := (s.remap.find (bankOf f.line) (rowOf f.line)).map (·.1), detail := detail }
    let own : FaultKind := match f.origin with
      | .patrol => .cePatrol
      | .copy => .ceCopy
      | _ => .ceUpstream
    let logged := if (s.policy (rowOf f.line)).ceLog then charged.1.offerRecord (record own f.detail) else charged.1
    (charged.2 = none → s.dispatch f = logged)
    ∧ ∀ errors, charged.2 = some errors →
      let told := logged.offerRecord (record .budgetExhausted (BitVec.ofNat 8 errors))
      let offered (row : Nat) : State :=
        if (s.policy row).autospare then told.offerSparing f.addr.bank row .budget else told
      let spare := f.addr.row - (32768 - s.remap.s)
      let home := s.remap.table.find? fun x => x.2.bank == f.addr.bank && x.2.dest == spare
      (f.addr.row < 32768 - s.remap.s → s.remap.find f.addr.bank f.addr.row = none → s.dispatch f = offered f.addr.row)
      ∧ (f.addr.row < 32768 - s.remap.s → s.remap.find f.addr.bank f.addr.row ≠ none → s.dispatch f = told)
      ∧ (32768 - s.remap.s ≤ f.addr.row → home = none → s.dispatch f = told)
      ∧ (∀ n e, 32768 - s.remap.s ≤ f.addr.row → home = some (n, e) → e.state = .active → s.dispatch f = offered e.row)
      ∧ (∀ n e, 32768 - s.remap.s ≤ f.addr.row → home = some (n, e) → e.state ≠ .active →
        s.dispatch f = told.destinationFailure))

/-! ### Media port -/

/-- A completion that fails the tests of its slot is discarded: LATE_COMPLETIONS is counted and nothing else changes while no
warm reset drains (R130). While one drains, the leg that the completion answers leaves the record of outstanding legs; with the last one
the drain ends, and WARM_RESET reports OK (R140, R177). That a read's leg is not tested is the model's reading (LOG 22). -/
def Obligations.LateCompletionsAreDiscarded : Prop :=
  (∀ (s : State) (i : SlotNo) (epoch : Epoch) (leg : Bool) (line : StoredLine), s.media.drain = none →
    ((∀ w, (s.slot i).work = some w → epoch ≠ (s.slot i).epoch ∨ w.phase = .write) →
      exec (.readCompletion i epoch leg line) s = .next (s.count .lateCompletions))
    ∧ ((∀ w, (s.slot i).work = some w →
        epoch ≠ (s.slot i).epoch ∨ w.phase ≠ .write ∨ (if leg then w.leg1 else w.leg0) = false) →
      exec (.writeCompletion i epoch leg) s = .next (s.count .lateCompletions)))
  ∧ (∀ (s : State) (i : SlotNo) (epoch : Epoch) (leg : Bool) (line : StoredLine) (d : Drain), s.media.drain = some d →
    let left := d.legs.erase { slot := i, epoch := epoch, leg := leg }
    let counted := s.count .lateCompletions
    let discarded : State :=
      if left = [] then
        { counted with media := { s.media with drain := none }, mgmt := { s.mgmt with result := .ok, running := none } }
      else { counted with media := { s.media with drain := some { legs := left, start := d.start } } }
    ((∀ w, (s.slot i).work = some w → epoch ≠ (s.slot i).epoch ∨ w.phase = .write) →
      exec (.readCompletion i epoch leg line) s = .next discarded)
    ∧ ((∀ w, (s.slot i).work = some w →
        epoch ≠ (s.slot i).epoch ∨ w.phase ≠ .write ∨ (if leg then w.leg1 else w.leg0) = false) →
      exec (.writeCompletion i epoch leg) s = .next discarded))

/-- The accepted completion of a LINE_READ whose line is CLEAN and matches no injection slot: READ_RESPONSE CLEAN with the data, the
slot FREE with its epoch kept, the entry retired and its credit pending; the gate is OPEN (R84, R130, R152, R153). Every accepted
completion of an upstream read is dispatched with the request's tag (R79, R83). A request that a link reset has discarded gets no answer,
and the slot frees (R141; LOG 25). An UNCORRECTABLE outcome of a read that holds a fallback target is followed by the fallback read, or
answered with MEDIA_FAILED while the port is FAILED (R65). Any other outcome of a LINE_READ answers it, by the table of R84 under
UE_RESPONSE. An answer sent retires its entry and frees its slot; while the port is FAILED the entries that it lets go are answered with
MEDIA_FAILED (R154; LOG 26), and a QUIESCING gate closes on an empty queue (R155). -/
def Obligations.CleanReadIsAnswered : Prop :=
  (∀ (s : State) (i : SlotNo) (w : Work) (tag : Tag) (e : IrqEntry) (leg : Bool) (line : StoredLine),
    (s.slot i).work = some w → w.owner = .upstream tag true → w.stage ≠ .orphan → w.phase = .read →
    s.ctl.irq.find? (fun x => x.tag == tag) = some e → e.kind = .read → s.media.failed = false → s.ctl.gate = .opened →
    (classify line).1 = .clean → s.uninjected .upstream w.line →
    exec (.readCompletion i (s.slot i).epoch leg line) s = .next
      { s with
        media := { s.media with
          timeouts := 0, slots := s.media.slots.set i.toNat { epoch := (s.slot i).epoch, work := none } i.isLt }
        ctl := { s.ctl with
          irq := s.ctl.irq.eraseP (fun x => x.tag == tag), p := s.ctl.p + 1
          out := s.ctl.out ++ [.readResponse tag .clean line.data] } })
  ∧ (∀ (s : State) (i : SlotNo) (w : Work) (tag : Tag) (leg : Bool) (line : StoredLine),
    (s.slot i).work = some w → w.stage ≠ .orphan → w.phase ≠ .write →
    let origin : Origin := if w.phase = .fallbackRead then .fallback else .upstream
    let delivered := s.outcomeOf origin w line
    let data := (classify line).2
    let d := s.dispatched w line origin w.fallback.isSome (BitVec.ofNat 8 tag.toNat)
    (w.owner = .upstream tag false → exec (.readCompletion i (s.slot i).epoch leg line) s = .next (d.freed i))
    ∧ ∀ e, w.owner = .upstream tag true → s.ctl.irq.find? (fun x => x.tag == tag) = some e →
      (∀ target, delivered = .uncorrectable → w.fallback = some target →
        (s.media.failed = false → exec (.readCompletion i (s.slot i).epoch leg line) s = .next
          ((d.given i
            { w with
              stage := .issuedSecond, phase := .fallbackRead, target := target, target2 := none, leg0 := true, leg1 := false
              fallback := none, start := s.us }).placed [.read i (s.slot i).epoch target]))
        ∧ (s.media.failed = true → exec (.readCompletion i (s.slot i).epoch leg line) s =
          .next (d.endWithAnswer i tag (e.failed .mediaFailed))))
      ∧ (delivered ≠ .uncorrectable ∨ w.fallback = none → e.kind = .read →
        exec (.readCompletion i (s.slot i).epoch leg line) s = .next (d.endWithAnswer i tag (match delivered with
          | .clean => .readResponse tag .clean data
          | .corrected => .readResponse tag .corrected data
          | _ =>
            if (s.policy (rowOf w.line)).ueResponse = .poison then .readResponse tag .poison data
            else .readFail tag .uncorrectable))))
  ∧ (∀ (s : State) (i : SlotNo) (tag : Tag) (m : CtlMsg), (∃ e ∈ s.ctl.irq, e.tag = tag) →
    let waits (e : IrqEntry) : Bool := s.media.failed && match e.state with
      | .issued _ => false
      | _ => true
    let queue := s.ctl.irq.eraseP (fun x => x.tag == tag)
    let kept := staying waits queue
    let gone := answered waits queue
    let t : State :=
      { s.freed i with ctl := { s.ctl with
          irq := kept, p := s.ctl.p + 1 + gone.length, out := s.ctl.out ++ m :: gone.map (·.failed .mediaFailed) } }
    (s.ctl.gate ≠ .quiescing ∨ kept ≠ [] → s.endWithAnswer i tag m = t)
    ∧ (s.ctl.gate = .quiescing → kept = [] →
      s.endWithAnswer i tag m = { t with ctl := { t.ctl with gate := .closed }, flags := s.flags ||| 0x0200 }))

/-- Accepted write completions of an upstream slot: while the other leg is outstanding the leg alone is marked; the last one
answers WRITE_RESPONSE OK, frees the slot and retires the entry (R130, R134, R152). The leg of any owner's write is marked so; the last
leg of an orphaned or a detached write frees its slot alone (R68, R141). A LINE_MERGE whose read delivered sound data goes on: the merged
line, its masked bytes from the request and the others from the line, is sealed and written where translation sends it now; it stops
with MERGE_POISON if the real or the delivered outcome is not sound, and with MEDIA_FAILED while the port is FAILED (R61, R74, R86, R139). -/
def Obligations.LastLegAnswersTheWrite : Prop :=
  (∀ (s : State) (i : SlotNo) (w : Work) (tag : Tag) (leg : Bool),
    (s.slot i).work = some w → w.owner = .upstream tag true → w.stage ≠ .orphan → w.phase = .write →
    (if leg then w.leg1 else w.leg0) = true →
    ((if leg then w.leg0 else w.leg1) = true →
      exec (.writeCompletion i (s.slot i).epoch leg) s = .next
        { s with media := { s.media with
          timeouts := 0
          slots := s.media.slots.set i.toNat
            { epoch := (s.slot i).epoch
              work := some (if leg then { w with leg1 := false } else { w with leg0 := false }) } i.isLt } })
    ∧ ((if leg then w.leg0 else w.leg1) = false → (∃ x ∈ s.ctl.irq, x.tag = tag) → s.media.failed = false →
      s.ctl.gate = .opened →
      exec (.writeCompletion i (s.slot i).epoch leg) s = .next
        { s with
          media := { s.media with
            timeouts := 0, slots := s.media.slots.set i.toNat { epoch := (s.slot i).epoch, work := none } i.isLt }
          ctl := { s.ctl with
            irq := s.ctl.irq.eraseP (fun x => x.tag == tag), p := s.ctl.p + 1
            out := s.ctl.out ++ [.writeResponse tag none] } }))
  ∧ (∀ (s : State) (i : SlotNo) (w : Work) (leg : Bool), (s.slot i).work = some w → w.phase = .write →
    (if leg then w.leg1 else w.leg0) = true →
    let cleared : State := { s with media := { s.media with timeouts := 0 } }
    ((if leg then w.leg0 else w.leg1) = true →
      exec (.writeCompletion i (s.slot i).epoch leg) s =
        .next (cleared.given i (if leg then { w with leg1 := false } else { w with leg0 := false })))
    ∧ ((if leg then w.leg0 else w.leg1) = false →
      (w.stage = .orphan ∨ (∃ tag, w.owner = .upstream tag false) →
        exec (.writeCompletion i (s.slot i).epoch leg) s = .next (cleared.freed i))
      ∧ (∀ tag, w.stage ≠ .orphan → w.owner = .upstream tag true →
        exec (.writeCompletion i (s.slot i).epoch leg) s =
          .next (cleared.endWithAnswer i tag (.writeResponse tag none)))))
  ∧ (∀ (s : State) (i : SlotNo) (w : Work) (tag : Tag) (e : IrqEntry) (request : LineData) (mask : ByteMask) (leg : Bool)
      (line : StoredLine), (s.slot i).work = some w → w.owner = .upstream tag true → w.stage ≠ .orphan → w.phase ≠ .write →
    s.ctl.irq.find? (fun x => x.tag == tag) = some e → e.kind = .merge request mask →
    let origin : Origin := if w.phase = .fallbackRead then .fallback else .upstream
    let delivered := s.outcomeOf origin w line
    let sound := soundOutcome (classify line).1 = true ∧ soundOutcome delivered = true
    let d := s.dispatched w line origin w.fallback.isSome (BitVec.ofNat 8 tag.toNat)
    let target := (d.translateWrite w.line).1
    let second := (d.translateWrite w.line).2
    delivered ≠ .uncorrectable ∨ w.fallback = none →
    (¬sound → exec (.readCompletion i (s.slot i).epoch leg line) s =
      .next (d.endWithAnswer i tag (.writeResponse tag (some .mergePoison))))
    ∧ (sound → s.media.failed = true → exec (.readCompletion i (s.slot i).epoch leg line) s =
      .next (d.endWithAnswer i tag (.writeResponse tag (some .mediaFailed))))
    ∧ (sound → s.media.failed = false → ∃ merged : LineData,
      (∀ b : Fin 512, merged.getLsbD b.val =
        if mask.getLsbD (b.val / 8) then request.getLsbD b.val else (classify line).2.getLsbD b.val)
      ∧ exec (.readCompletion i (s.slot i).epoch leg line) s = .next
        ((d.given i
          { w with
            stage := .issuedSecond, phase := .write, target := target, target2 := second, leg0 := true
            leg1 := second.isSome, start := s.us }).placed
          (.write i (s.slot i).epoch false target (sealLine merged) :: match second with
            | none => []
            | some a => [.write i (s.slot i).epoch true a (sealLine merged)]))))

/-- MEDIA_TIMEOUT of an upstream request's phase: the slot FREE with its epoch advanced, MEDIA_TIMEOUTS counted, consecutive
timeouts one up, a MEDIA_TIMEOUT record, and the request answered with MEDIA_TIMEOUT; the fourth in a row fails the port with
MEDIA_FAILED set and the patrol STOPPED (R135 to R138). That the time base
is carried to the timer's deadline is the model's choice (LOG 2). The timeout of any slot's phase has these effects of its own; then its
owner is told: no one for orphaned or detached work, the request by its answer, the engine by an abort with MEDIA_TIMEOUT, the patrol by
the end of its step (R70, R114, R136). Then the port enters FAILED if it is to, and last the engine takes its next request, and the
patrol attempts a step that is due (LOG 17). A slot that is FREE has no timer (LOG 3). -/
def Obligations.PhaseTimeoutFreesTheSlot : Prop :=
  (∀ (s : State) (i : SlotNo) (w : Work) (tag : Tag) (e : IrqEntry),
    (s.slot i).work = some w → w.owner = .upstream tag true → w.stage ≠ .orphan →
    s.ctl.irq.find? (fun x => x.tag == tag) = some e → s.media.failed = false → s.media.timeouts ≤ 3 →
    s.log.records.length < 31 →
    ∃ t, exec (.mediaTimeout i) s = .next t
      ∧ t.us = max s.us (w.start + 50)
      ∧ (t.slot i).work = none ∧ (t.slot i).epoch = (s.slot i).epoch + 1
      ∧ t.media.timeouts = s.media.timeouts + 1
      ∧ t.counter .mediaTimeouts = min (s.counter .mediaTimeouts + 1) 65535
      ∧ (∃ rest, t.ctl.out = s.ctl.out ++
          ((if e.kind.writes then .writeResponse tag (some .mediaTimeout) else .readFail tag .mediaTimeout) :: rest)
          ∧ (s.media.timeouts ≠ 3 → rest = []))
      ∧ (t.media.failed = true ↔ s.media.timeouts = 3)
      ∧ (s.media.timeouts = 3 → t.patrol.state = .stopped ∧ t.flag .mediaFailed = true)
      ∧ ∃ o more, t.log.records = s.log.records ++ { seq := s.log.nextSeq, body := o } :: more
        ∧ o.kind = .mediaTimeout ∧ o.line = some w.line ∧ o.detail = BitVec.ofNat 8 i.toNat
        ∧ (s.media.timeouts ≠ 3 → more = []))
  ∧ (∀ (s : State) (i : SlotNo) (w : Work), (s.slot i).work = some w →
    let own := s.timedOut i w
    let ended (t : State) : State := if s.media.failed = false ∧ 3 ≤ s.media.timeouts then t.portFailed i else t
    (w.stage = .orphan ∨ (∃ tag, w.owner = .upstream tag false) → exec (.mediaTimeout i) s = .next (ended own))
    ∧ (∀ tag e, w.stage ≠ .orphan → w.owner = .upstream tag true → s.ctl.irq.find? (fun x => x.tag == tag) = some e →
      exec (.mediaTimeout i) s = .next (ended (own.endWithAnswer i tag (e.failed .mediaTimeout))))
    ∧ (w.stage ≠ .orphan → w.owner = .copy → exec (.mediaTimeout i) s = .next (ended (own.abort .mediaTimeout)).engineTake)
    ∧ (w.stage ≠ .orphan → w.owner = .patrol →
      exec (.mediaTimeout i) s = exec .patrolReadIssue (ended own.endPatrolStep)))
  ∧ (∀ (s : State) (i : SlotNo), (s.slot i).work = none → exec (.mediaTimeout i) s = .next s)

/-! ### Controller port -/

/-- A request with G = 0 is discarded without an answer: CREDIT_OVERRUNS is counted and nothing else changes; its tag is not
compared (R145). -/
def Obligations.RequestWithoutCreditIsAnOverrun : Prop :=
  ∀ (s : State) (tagByte : Byte) (line : LineAddr) (data : LineData) (mask : ByteMask), s.ctl.linkUp = true → s.ctl.g = 0 →
    ∀ c ∈ [Instr.lineRead tagByte line, .lineWrite tagByte line data, .lineMerge tagByte line data mask],
      exec c s = .next (s.count .creditOverruns)

/-- A request whose tag an unretired entry holds is discarded: its credit becomes pending, PROTOCOL_ERRORS is counted, a PROTOCOL
record is offered, and the queue is not touched (R146). -/
def Obligations.DuplicateTagIsDiscarded : Prop :=
  ∀ (s : State) (tagByte : Byte) (line : LineAddr) (data : LineData) (mask : ByteMask), s.ctl.linkUp = true → 1 ≤ s.ctl.g →
    (∃ e ∈ s.ctl.irq, e.tag.toNat = tagByte.toNat % 64) →
    ∀ c ∈ [Instr.lineRead tagByte line, .lineWrite tagByte line data, .lineMerge tagByte line data mask],
      exec c s = .next (State.offerRecord
        ({ s with ctl := { s.ctl with g := s.ctl.g - 1, p := s.ctl.p + 1 } }.count .protocolErrors)
        { kind := .protocol, time := s.now, origin := .link, injected := false, line := some line.toNat, phys := none
          slot := none, detail := BitVec.ofNat 8 (tagByte.toNat % 64) })

/-- Refusals at arrival, in the order of R144: NOT_OPEN with the gate not OPEN, counted; MEDIA_FAILED with the port FAILED; RANGE at or
beyond visible capacity, with one RANGE record that holds the address as received and the tag. Each is answered at once and its
credit is pending (R5, R6, R147). -/
def Obligations.RefusedRequestsAreAnsweredAtOnce : Prop :=
  (∀ (s : State) (tagByte : Byte) (line : LineAddr) (data : LineData) (mask : ByteMask), s.ctl.linkUp = true → 1 ≤ s.ctl.g →
    (∀ e ∈ s.ctl.irq, e.tag.toNat ≠ tagByte.toNat % 64) →
    let tag : Tag := BitVec.ofNat 6 tagByte.toNat
    let answered (m : CtlMsg) : State :=
      { s with ctl := { s.ctl with g := s.ctl.g - 1, p := s.ctl.p + 1, out := s.ctl.out ++ [m] } }
    (s.ctl.gate ≠ .opened →
      exec (.lineRead tagByte line) s = .next ((answered (.readFail tag .notOpen)).count .notOpenRefusals)
      ∧ ∀ c ∈ [Instr.lineWrite tagByte line data, .lineMerge tagByte line data mask],
        exec c s = .next ((answered (.writeResponse tag (some .notOpen))).count .notOpenRefusals))
    ∧ (s.ctl.gate = .opened → s.media.failed = true →
      exec (.lineRead tagByte line) s = .next (answered (.readFail tag .mediaFailed))
      ∧ ∀ c ∈ [Instr.lineWrite tagByte line data, .lineMerge tagByte line data mask],
        exec c s = .next (answered (.writeResponse tag (some .mediaFailed)))))
  ∧ (∀ (s : State) (tagByte : Byte) (line : LineAddr) (data : LineData) (mask : ByteMask), s.ctl.linkUp = true → 1 ≤ s.ctl.g →
    (∀ e ∈ s.ctl.irq, e.tag.toNat ≠ tagByte.toNat % 64) → s.ctl.gate = .opened → s.media.failed = false →
    2048 * (32768 - s.remap.s) ≤ line.toNat →
    let tag : Tag := BitVec.ofNat 6 tagByte.toNat
    let refused (m : CtlMsg) : State := State.offerRecord
      { s with ctl := { s.ctl with g := s.ctl.g - 1, p := s.ctl.p + 1, out := s.ctl.out ++ [m] } }
      { kind := .range, time := s.now, origin := .upstream, injected := false, line := some line.toNat, phys := none
        slot := none, detail := BitVec.ofNat 8 (tagByte.toNat % 64) }
    exec (.lineRead tagByte line) s = .next (refused (.readFail tag .range))
    ∧ ∀ c ∈ [Instr.lineWrite tagByte line data, .lineMerge tagByte line data mask],
      exec c s = .next (refused (.writeResponse tag (some .range))))

/-- An accepted request joins the tail of the queue: WAITING, or HELD for a write or merge of the in-copy line; a write or merge
of the cursor line of a patrol whose read is in flight sets the cancel mark; then a grant attempt answers all-zero merges (R113,
R148). That the attempt is part of the arrival's step is the model's choice (LOG 5). -/
def Obligations.AcceptedRequestJoinsTheQueue : Prop :=
  ∀ (s : State) (tagByte : Byte) (line : LineAddr) (data : LineData) (mask : ByteMask), s.ctl.linkUp = true → 1 ≤ s.ctl.g →
    (∀ e ∈ s.ctl.irq, e.tag.toNat ≠ tagByte.toNat % 64) → s.ctl.gate = .opened → s.media.failed = false →
    line.toNat < 2048 * (32768 - s.remap.s) →
    let joined (kind : RequestKind) (writes : Bool) : State :=
      { s with
        ctl := { s.ctl with
          g := s.ctl.g - 1
          irq := s.ctl.irq ++
            [{ tag := BitVec.ofNat 6 tagByte.toNat, kind := kind, line := line.toNat
               state := if writes ∧ s.inCopyLine = some line.toNat then .held else .waiting }] }
        patrol := { s.patrol with cancel := s.patrol.cancel ||
          (writes && (s.patrol.state == .reading || s.patrol.state == .stopping .read) && s.patrol.cursor == line.toNat) } }
    exec (.lineRead tagByte line) s = .next (joined .read false).answerZeroMerges
    ∧ exec (.lineWrite tagByte line data) s = .next (joined (.write data) true).answerZeroMerges
    ∧ exec (.lineMerge tagByte line data mask) s = .next (joined (.merge data mask) true).answerZeroMerges

/-- A message of a type that is no request's is discarded, and nothing changes (R181). CREDIT carries the whole of P, which moves
to G (R143). LINK_UP lets messages pass (R158). That CREDIT is sent
only with the link up is the model's reading (LOG 8). -/
def Obligations.UnknownTypesCreditsAndLinkUp : Prop :=
  ∀ (s : State) (type : Byte),
    exec (.unknownMessageType type) s = .next s
    ∧ (s.ctl.linkUp = true → 1 ≤ s.ctl.p → exec .credit s = .next
        { s with ctl := { s.ctl with g := s.ctl.g + s.ctl.p, p := 0, out := s.ctl.out ++ [.credit s.ctl.p] } })
    ∧ exec .linkUp s = .next { s with ctl := { s.ctl with linkUp := true } }

/-- LINK_RESET discards every entry, restores 32 credits, drops what was not sent, detaches every upstream slot that is not FREE,
and closes a QUIESCING gate with its flag; the rest of the part is unchanged (R141, R158). That what was
not sent is the whole of `ctl.out` is the model's choice (LOG 12). -/
def Obligations.LinkResetClearsTheControllerSide : Prop :=
  ∀ s : State, ∃ t, exec .linkReset s = .next t
    ∧ t = { s with ctl := t.ctl, media := { s.media with slots := t.media.slots }, flags := t.flags }
    ∧ t.ctl = { linkUp := false, gate := if s.ctl.gate = .quiescing then .closed else s.ctl.gate, g := 32, p := 0, irq := []
                out := [] }
    ∧ t.flags = (if s.ctl.gate = .quiescing then s.flags ||| 0x0200 else s.flags)
    ∧ ∀ i : SlotNo, (t.slot i).epoch = (s.slot i).epoch
      ∧ (∀ w tag attached, (s.slot i).work = some w → w.owner = .upstream tag attached →
        (t.slot i).work = some { w with owner := .upstream tag false })
      ∧ ((s.slot i).work = none → (t.slot i).work = none)
      ∧ ∀ w, (s.slot i).work = some w → w.owner = .copy ∨ w.owner = .patrol → (t.slot i).work = some w

/-- The choice at a grant attempt: the first entry of the queue that is WAITING, is no all-zero merge, has no older entry of its
line, and whose line is free; none exactly when no entry qualifies (R132, R150). A line is free when no upstream slot works on it, nor
the background slot, whose copy of the in-copy line keeps back writes alone unless it is an orphan (R58, R150). At the attempt, while the
gate is not CLOSED, the port OK and no warm reset drains, the WAITING all-zero merges whose line is free and that have no older entry of
their line left are answered OK, in arrival order (R85; LOG 26). -/
def Obligations.GrantChoosesTheOldestEligible : Prop :=
  (∀ s : State,
    let fits (older : List IrqEntry) (e : IrqEntry) : Prop :=
      e.state = .waiting ∧ e.kind.isZeroMerge = false ∧ (∀ x ∈ older, x.line ≠ e.line) ∧ s.lineFree e = true
    (∀ e, s.oldestEligible [] s.ctl.irq = some e → ∃ older younger, s.ctl.irq = older ++ e :: younger ∧ fits older e
        ∧ ∀ before x after, older = before ++ x :: after → ¬fits before x)
    ∧ (s.oldestEligible [] s.ctl.irq = none → ∀ before x after, s.ctl.irq = before ++ x :: after → ¬fits before x))
  ∧ (∀ (s : State) (e : IrqEntry), s.lineFree e = true ↔
    (∀ i : SlotNo, i ≠ background → ∀ w, (s.slot i).work = some w → w.line ≠ e.line)
    ∧ ∀ w, (s.slot background).work = some w → w.line = e.line → e.kind = .read ∧ w.owner = .copy ∧ w.stage ≠ .orphan)
  ∧ (∀ s : State,
    let asks (e : IrqEntry) : Bool := e.state == .waiting && s.lineFree e && match e.kind with
      | .merge _ mask => mask == 0
      | _ => false
    let kept := staying asks s.ctl.irq
    let gone := answered asks s.ctl.irq
    let t : State :=
      { s with ctl := { s.ctl with
          irq := kept, p := s.ctl.p + gone.length, out := s.ctl.out ++ gone.map fun e => .writeResponse e.tag none } }
    (s.ctl.gate = .closed ∨ s.media.failed = true ∨ s.media.drain ≠ none → s.answerZeroMerges = s)
    ∧ (s.ctl.gate ≠ .closed → s.media.failed = false → s.media.drain = none →
      (s.ctl.gate ≠ .quiescing ∨ kept ≠ [] → s.answerZeroMerges = t)
      ∧ (s.ctl.gate = .quiescing → kept = [] →
        s.answerZeroMerges = { t with ctl := { t.ctl with gate := .closed }, flags := s.flags ||| 0x0200 })))

/-- SLOT_GRANT: the oldest eligible entry is granted the lowest FREE upstream slot and becomes ISSUED, in one step. A LINE_READ's read
goes to the translated target, with its fallback target recorded (R9, R12, R129, R132). A LINE_WRITE's line, sealed with computed
check bytes, goes to its target, and to the second target as leg 1 of a dual write, from one slot with one epoch (R74, R134). That a grant is
a step of its own is the model's choice (LOG 5). A LINE_MERGE whose mask is all ones issues its write so, any other its read (R85); an
OPEN and a QUIESCING gate grant alike, after the all-zero merges have been answered; with the gate CLOSED, the port FAILED, a warm reset
draining, no upstream slot FREE or no entry eligible, nothing is granted (R132, R139, R140, R150; LOG 3). -/
def Obligations.SlotGrantIssuesTheFirstPhase : Prop :=
  (∀ (s : State) (i : SlotNo) (e : IrqEntry), s.ctl.gate = .opened → s.media.failed = false → s.media.drain = none →
    (∀ x ∈ s.ctl.irq, x.kind.isZeroMerge = false) → s.freeUpstream = some i → s.oldestEligible [] s.ctl.irq = some e →
    e.kind = .read →
    exec .slotGrant s = .next
      { s with
        media := { s.media with
          slots := s.media.slots.set i.toNat
            { epoch := (s.slot i).epoch
              work := some
                { stage := .issued, owner := .upstream e.tag true, line := e.line, phase := .read
                  target := (s.translateRead e.line).1, target2 := none, leg0 := true, leg1 := false
                  fallback := (s.translateRead e.line).2, start := s.us } } i.isLt
          out := s.media.out ++ [.read i (s.slot i).epoch (s.translateRead e.line).1] }
        ctl := { s.ctl with irq :=
          (s.ctl.irq.map fun x => if x.tag = e.tag then { x with state := .issued i } else x) } })
  ∧ (∀ (s : State) (i : SlotNo) (e : IrqEntry) (data : LineData), s.ctl.gate = .opened → s.media.failed = false →
    s.media.drain = none → (∀ x ∈ s.ctl.irq, x.kind.isZeroMerge = false) → s.freeUpstream = some i →
    s.oldestEligible [] s.ctl.irq = some e → e.kind = .write data →
    let target := (s.translateWrite e.line).1
    let second := (s.translateWrite e.line).2
    ∃ t, exec .slotGrant s = .next t
      ∧ t.media.out = s.media.out ++ [.write i (s.slot i).epoch false target (sealLine data)]
          ++ (match second with
            | none => []
            | some a => [.write i (s.slot i).epoch true a (sealLine data)])
      ∧ (∃ w, (t.slot i).work = some w ∧ w.stage = .issued ∧ w.owner = .upstream e.tag true ∧ w.phase = .write
          ∧ w.target = target ∧ w.target2 = second ∧ w.leg0 = true ∧ w.leg1 = second.isSome ∧ w.start = s.us)
      ∧ t.ctl.irq = s.ctl.irq.map fun x => if x.tag = e.tag then { x with state := .issued i } else x)
  ∧ (∀ s : State,
    (∀ i, s.freeUpstream = some i → i ≠ background ∧ (s.slot i).work = none
      ∧ ∀ j : SlotNo, j.toNat < i.toNat → (s.slot j).work ≠ none)
    ∧ (s.freeUpstream = none ↔ ∀ i : SlotNo, i ≠ background → (s.slot i).work ≠ none))
  ∧ (∀ s : State,
    let z := s.answerZeroMerges
    let issues := z.ctl.gate ≠ .closed ∧ s.media.failed = false ∧ s.media.drain = none
    (¬issues ∨ z.freeUpstream = none ∨ z.oldestEligible [] z.ctl.irq = none → exec .slotGrant s = .next z)
    ∧ ∀ i e, issues → z.freeUpstream = some i → z.oldestEligible [] z.ctl.irq = some e →
      let queue := z.ctl.irq.map fun x => if x.tag = e.tag then { x with state := .issued i } else x
      let issued (w : Work) (ops : List MediaOp) : State :=
        ({ z with ctl := { z.ctl with irq := queue } }.given i w).placed ops
      let reads := exec .slotGrant s = .next (issued
        { stage := .issued, owner := .upstream e.tag true, line := e.line, phase := .read, target := (s.translateRead e.line).1
          target2 := none, leg0 := true, leg1 := false, fallback := (s.translateRead e.line).2, start := s.us }
        [.read i (s.slot i).epoch (s.translateRead e.line).1])
      let writes (data : LineData) := exec .slotGrant s = .next (issued
        { stage := .issued, owner := .upstream e.tag true, line := e.line, phase := .write, target := (s.translateWrite e.line).1
          target2 := (s.translateWrite e.line).2, leg0 := true, leg1 := (s.translateWrite e.line).2.isSome, fallback := none
          start := s.us }
        (.write i (s.slot i).epoch false (s.translateWrite e.line).1 (sealLine data) :: match (s.translateWrite e.line).2 with
          | none => []
          | some a => [.write i (s.slot i).epoch true a (sealLine data)]))
      (e.kind = .read → reads)
      ∧ (∀ data, e.kind = .write data → writes data)
      ∧ (∀ data mask, e.kind = .merge data mask → mask = BitVec.allOnes 64 → writes data)
      ∧ (∀ data mask, e.kind = .merge data mask → mask ≠ BitVec.allOnes 64 → reads))

/-- OPEN_GATE opens a CLOSED gate, else WRONG_STATE; CLOSE_GATE takes OPEN to QUIESCING, or to CLOSED with GATE_CLOSED set when the
queue is empty, and changes nothing in QUIESCING and CLOSED (R155, R156). -/
def Obligations.GateCommandsChangeTheGate : Prop :=
  ∀ (s : State) (p : Params),
    (s.takes codeOpenGate p →
      (s.ctl.gate = .closed →
        exec .openGate s = .next (State.finished { s with ctl := { s.ctl with gate := .opened } } codeOpenGate .ok))
      ∧ (s.ctl.gate ≠ .closed → exec .openGate s = .next (s.finished codeOpenGate .wrongState)))
    ∧ (s.takes codeCloseGate p →
      (s.ctl.gate = .opened → s.ctl.irq ≠ [] →
        exec .closeGate s = .next (State.finished { s with ctl := { s.ctl with gate := .quiescing } } codeCloseGate .ok))
      ∧ (s.ctl.gate = .opened → s.ctl.irq = [] →
        exec .closeGate s = .next (State.finished
          { s with ctl := { s.ctl with gate := .closed }, flags := s.flags ||| 0x0200 } codeCloseGate .ok))
      ∧ (s.ctl.gate ≠ .opened → exec .closeGate s = .next (s.finished codeCloseGate .ok)))

/-- GET_STATUS completes with OK in every state and changes nothing but DATA and DATA_X, whose fields hold the values of the moment:
STATUS0, the occupancy of the Inbound Request Queue, G, P, the HELD entries, the consecutive timeouts, the slots that are not FREE, S,
the queued sparing requests, the fault records, the engine's context (zero in IDLE), the patrol's cursor, interval and sweep reads, the
armed slots and the match counters of the injection unit, and the millisecond count (R157, R179). -/
def Obligations.GetStatusReadsOut : Prop :=
  ∀ (s : State) (p : Params), s.takes codeGetStatus p →
    ∃ t, exec .getStatus s = .next t
      ∧ t = State.finished { s with mgmt := { s.mgmt with data := t.mgmt.data, dataX := t.mgmt.dataX } } codeGetStatus .ok
      ∧ t.mgmt.data[0] = s.readRegister 0x03
      ∧ t.mgmt.data.toList.take 31 = s.statusReadout
      ∧ (∀ i : Fin 4, t.mgmt.data[31].getLsbD i.val = s.inject[i].armed ∧ t.mgmt.data[31].getLsbD (4 + i.val) = false)
      ∧ (∀ i : Fin 4, t.mgmt.dataX[i] = BitVec.ofNat 8 s.inject[i].count)
      ∧ t.mgmt.dataX.toList.drop 4 = fourBytes s.now.toNat ++ [0]
      ∧ (s.engine = none → ∀ i : Fin 11, t.mgmt.data[10 + i.val] = 0)
      ∧ (∀ c, s.engine = some c → t.mgmt.data[13] = BitVec.ofNat 8 c.cursor ∧ t.mgmt.data[14] = BitVec.ofNat 8 c.restarts)
      ∧ (∀ i : Fin 4, t.mgmt.data[21 + i.val] = BitVec.ofNat 8 (s.patrol.cursor / 256 ^ i.val))

/-- WARM_RESET: the gate CLOSED without its flag, every unretired entry answered with RESET in arrival order, and its credit and those
pending sent back in one CREDIT while the link is up (R155, R159; LOG 8); a migration aborted, its entry reverted, its destination
FREE, SPARE_ABORTED written, the engine IDLE and its queue empty (R29, R46, R71); the patrol STOPPED with its cursor kept, every
injection slot disarmed with its match counter at 0, every media slot FREE with its epoch advanced, the port OK (R106, R119, R140).
With no leg outstanding it completes at once, else it stays BUSY while the legs drain (R177). Nothing else changes. -/
def Obligations.WarmResetEndsTheWorkInFlight : Prop :=
  ∀ (s : State) (p : Params), s.takes codeWarmReset p →
    let credits := s.ctl.p + s.ctl.irq.length
    let sends := s.ctl.linkUp = true ∧ credits ≠ 0
    let legs : List DrainLeg :=
      ([0, 1, 2, 3, 4, 5, 6, 7, 8, 9, 10, 11, 12, 13, 14, 15] : List SlotNo).flatMap fun i =>
        match (s.slot i).work with
        | none => []
        | some w =>
          (if w.leg0 then [{ slot := i, epoch := (s.slot i).epoch, leg := false }] else [])
            ++ (if w.leg1 then [{ slot := i, epoch := (s.slot i).epoch, leg := true }] else [])
    ∃ t, exec .warmReset s = .next t
      ∧ t = { s with
          remap := t.remap, engine := none, srq := []
          patrol := { s.patrol with state := .stopped, due := false, cancel := false, timer := none }
          inject := t.inject, log := t.log, counters := t.counters, flags := t.flags
          media :=
            { slots := t.media.slots, failed := false, timeouts := 0, out := s.media.out
              drain := if legs = [] then none else some { legs := legs, start := s.us } }
          ctl := { s.ctl with
            gate := .closed, irq := [], g := if sends then s.ctl.g + credits else s.ctl.g, p := if sends then 0 else credits
            out := s.ctl.out ++ s.ctl.irq.map (fun e => e.failed .reset) ++ if sends then [.credit credits] else [] }
          mgmt :=
            if legs = [] then { s.mgmt with command := codeWarmReset, result := .ok, running := none }
            else
              { s.mgmt with
                command := codeWarmReset, running := some { code := codeWarmReset, params := p, taken := true } } }
      ∧ (∀ k : Fin 4, t.inject[k] = { s.inject[k] with armed := false, count := 0 })
      ∧ (∀ i : SlotNo, t.slot i = { epoch := (s.slot i).epoch + 1, work := none })
      ∧ t.flag .gateClosed = s.flag .gateClosed
      ∧ (s.engine = none → t.remap = s.remap ∧ t.log = s.log ∧ t.counters = s.counters ∧ t.flags = s.flags)
      ∧ ∀ c e, s.engine = some c → s.remap.entryAt c.entrySlot = some e →
        let told := s.offerRecord
          { kind := .spareAborted, time := s.now, origin := .command, injected := false, line := some (lineOf e.row e.bank 0)
            phys := some { bank := e.bank, row := 32768 - s.remap.s + c.dest, column := none }
            slot := some c.entrySlot, detail := 1 }
        t.log = told.log ∧ t.counters = told.counters ∧ t.flags = told.flags
        ∧ t.remap.s = s.remap.s ∧ t.remap.lowWater = s.remap.lowWater
        ∧ (∀ n, n ≠ c.entrySlot → t.remap.entryAt n = s.remap.entryAt n)
        ∧ t.remap.entryAt c.entrySlot = (match c.source with
          | .original => none
          | .spare d => some { e with state := .active, dest := d, time := s.now })
        ∧ t.remap.spareState e.bank c.dest = .free
        ∧ ∀ b k, ¬(b = e.bank ∧ k = c.dest) → t.remap.spareState b k = s.remap.spareState b k

/-! ### Watch List commands and decay -/

/-- READ_WATCH: BAD_PARAM above 63, NOT_FOUND past the last entry, else OK with the entry's readout (R103), whose bytes are those of
R179 with the standing of R11. CLEAR_WATCH removes every entry and changes nothing else (R102). SET_THRESHOLDS: BAD_PARAM if any
threshold is 0; else the four classes and the period are replaced and the decay timer restarts, with no expiry under a period of 0
(R92). -/
def Obligations.WatchCommandsReadClearAndSet : Prop :=
  (∀ (s : State) (p : Params),
    (s.takes codeReadWatch p →
      (63 < paramByte p 0 → exec .readWatch s = .next (s.finished codeReadWatch .badParam))
      ∧ (paramByte p 0 ≤ 63 → s.watch.entries.length ≤ paramByte p 0 →
        exec .readWatch s = .next (s.finished codeReadWatch .notFound))
      ∧ ∀ (h : paramByte p 0 < s.watch.entries.length), paramByte p 0 ≤ 63 →
        exec .readWatch s =
          .next ((s.putData (s.watchBytes (paramByte p 0) s.watch.entries[paramByte p 0])).finished codeReadWatch .ok))
    ∧ (s.takes codeClearWatch p →
      exec .clearWatch s = .next (State.finished { s with watch := { s.watch with entries := [] } } codeClearWatch .ok)))
  ∧ (∀ (s : State) (p : Params), s.takes codeSetThresholds p →
    let zero := paramByte p 0 = 0 ∨ paramByte p 1 = 0 ∨ paramByte p 2 = 0 ∨ paramByte p 3 = 0
    let period := paramByte p 4 + 256 * paramByte p 5
    (zero → exec .setThresholds s = .next (s.finished codeSetThresholds .badParam))
    ∧ (¬zero → exec .setThresholds s = .next (State.finished
        { s with watch :=
          { s.watch with
            thresholds := #v[paramByte p 0, paramByte p 1, paramByte p 2, paramByte p 3], period := period
            nextExpiry := if period = 0 then none else some (s.us + 1000 * period) } } codeSetThresholds .ok)))
  ∧ (∀ (s : State) (index : Nat) (e : WatchEntry), s.watchBytes index e = s.watchReadout index e)

/-- DECAY_EXPIRY: every budget rises by 1 and the entries that reach their threshold are removed, the others keep their order; the next
expiry falls one period on (R91, R97). DRAIN_EXPIRY: 50 µs after a warm reset the drain ends and WARM_RESET reports OK (R140,
R177). INTERVAL_EXPIRY during a step sets due and the timer does not run again; in WAITING it makes the step due, and an attempt follows
at once, as PATROL_READ_ISSUE makes it (R109, R110). The time base is carried to the deadline (LOG 2). -/
def Obligations.TimerExpiriesTakeTheirEffect : Prop :=
  (∀ (s : State) (at_ : Nat), s.watch.nextExpiry = some at_ →
    exec .decayExpiry s = .next
      { s with
        us := max s.us at_
        watch := { s.watch with
          entries := (s.watch.entries.filter fun e => e.budget + 1 < e.threshold).map fun e => { e with budget := e.budget + 1 }
          nextExpiry := some (at_ + 1000 * s.watch.period) } })
  ∧ (∀ (s : State) (d : Drain), s.media.drain = some d →
    exec .drainExpiry s = .next
      { s with us := max s.us (d.start + 50), media := { s.media with drain := none }
               mgmt := { s.mgmt with result := .ok, running := none } })
  ∧ (∀ (s : State) (at_ : Nat), s.patrol.timer = some at_ → s.patrol.state = .reading ∨ s.patrol.state = .writingBack →
    exec .intervalExpiry s = .next { s with us := max s.us at_, patrol := { s.patrol with timer := none, due := true } })
  ∧ (∀ (s : State) (at_ : Nat), s.patrol.timer = some at_ → s.patrol.state = .waiting →
    exec .intervalExpiry s =
      exec .patrolReadIssue { s with us := max s.us at_, patrol := { s.patrol with timer := none, due := true } })

/-! ### Patrol -/

/-- PATROL_CONTROL: START and STOP by the state of the patrol and of the media port (R116); SET_INTERVAL and SET_CURSOR (R117); an
operation it does not know is BAD_PARAM (R116; in the row of START, LOG 16). -/
def Obligations.PatrolControlOperations : Prop :=
  (∀ (s : State) (p : Params), s.takes codePatrolControl p →
    let ended (state : PatrolState) : State :=
      State.finished { s with patrol := { s.patrol with state := state, due := false, timer := none } } codePatrolControl .ok
    (paramByte p 0 = 1 →
      (s.patrol.state = .stopped → s.media.failed = false → exec .start s = .next (State.finished
        { s with patrol := { s.patrol with state := .waiting, due := false, timer := some (s.us + s.patrol.interval) } }
        codePatrolControl .ok))
      ∧ (s.patrol.state = .stopped → s.media.failed = true → exec .start s = .next (s.finished codePatrolControl .wrongState))
      ∧ (s.patrol.state = .waiting ∨ s.patrol.state = .reading ∨ s.patrol.state = .writingBack →
        exec .start s = .next (s.finished codePatrolControl .ok))
      ∧ ∀ phase, s.patrol.state = .stopping phase → exec .start s = .next (s.finished codePatrolControl .wrongState))
    ∧ (paramByte p 0 = 2 →
      (s.patrol.state = .stopped ∨ (∃ phase, s.patrol.state = .stopping phase) →
        exec .stop s = .next (s.finished codePatrolControl .ok))
      ∧ (s.patrol.state = .waiting → exec .stop s = .next (ended .stopped))
      ∧ (s.patrol.state = .reading → exec .stop s = .next (ended (.stopping .read)))
      ∧ (s.patrol.state = .writingBack → exec .stop s = .next (ended (.stopping .writeBack)))))
  ∧ (∀ (s : State) (p : Params), s.takes codePatrolControl p →
    let interval := paramByte p 1 + 256 * paramByte p 2
    let line := paramByte p 1 + 256 * paramByte p 2 + 65536 * (paramByte p 3 + 256 * paramByte p 4)
    let capacity := 2048 * (32768 - s.remap.s)
    (paramByte p 0 = 3 →
      (interval = 0 → exec .setInterval s = .next (s.finished codePatrolControl .badParam))
      ∧ (interval ≠ 0 → exec .setInterval s =
        .next (State.finished { s with patrol := { s.patrol with interval := interval } } codePatrolControl .ok)))
    ∧ (paramByte p 0 = 4 →
      (capacity ≤ line → exec .setCursor s = .next (s.finished codePatrolControl .badParam))
      ∧ (line < capacity → s.patrol.state ≠ .stopped → exec .setCursor s = .next (s.finished codePatrolControl .wrongState))
      ∧ (line < capacity → s.patrol.state = .stopped → exec .setCursor s =
        .next (State.finished { s with patrol := { s.patrol with cursor := line, sweepReads := 0 } } codePatrolControl .ok)))
    ∧ (paramByte p 0 = 0 ∨ 4 < paramByte p 0 → exec .start s = .next (s.finished codePatrolControl .badParam)))

/-- An attempt of a due patrol whose cursor line is visible, scrubbed, not MIGRATING and quiet, with the background slot FREE and no
copy ready: the patrol read is issued, and the patrol is READING (R108, R110). PATROL_READ_ISSUE makes the attempt; so does
INTERVAL_EXPIRY in WAITING, at the timer's deadline (R109). Sweep reads rises by 1; at the top of its range it takes a free value within
it (LOG 11). The deadline and the steps in which attempts fall are the model's (LOG 2, LOG 6). With no step due, the port FAILED or a
warm reset draining there is no attempt (LOG 3); a line that is not quiet, or a background slot in use or claimed by a ready copy, leaves
the step due. The choice moves the cursor to the first line from it up that is visible, scrubbed and not MIGRATING; else it wraps, a sweep
counted in SWEEPS with SWEEP_DONE set when a line was read, and goes on from line 0; where no line passes it wraps twice, the step is
no longer due and the timer restarts (R107, R108; LOG 20). The end of a step advances the cursor, wrapping at visible capacity, and the
patrol is WAITING, or STOPPED out of STOPPING (R107, R116). A completed patrol read is dispatched with origin PATROL; then the real
outcome and the cancel mark decide: the step ends, SCRUB_CANCELLED counted for a write-back withheld, or the corrected line or a poison
marker is written back to the read's target and SCRUB_WRITEBACKS counted (R111, R112). The completion of a write-back ends the step; a
patrol that a FAILED port has stopped frees the slot alone (R112, R115). An ended step that is due again is attempted at once (R109). -/
def Obligations.PatrolReadIssuesForAQuietLine : Prop :=
  (∀ s : State, s.patrol.state = .waiting → s.media.failed = false → s.media.drain = none →
    s.patrol.cursor < 2048 * (32768 - s.remap.s) → (s.policy (rowOf s.patrol.cursor)).scrub = true →
    s.lineMigrating s.patrol.cursor = false → (s.slot background).work = none → s.copyReady = false →
    (∀ i ∈ upstreamSlots, (s.slot i).onLine s.patrol.cursor = false) → (∀ e ∈ s.ctl.irq, e.line ≠ s.patrol.cursor) →
    let target := (s.translateRead s.patrol.cursor).1
    let reading (us sweepReads freeCount : Nat) : State :=
      { s with
        us := us
        patrol := { s.patrol with
          state := .reading, due := false, cancel := false, sweepReads := sweepReads, timer := some (us + s.patrol.interval) }
        media := { s.media with
          slots := s.media.slots.set 15
            { epoch := (s.slot background).epoch
              work := some
                { stage := .issued, owner := .patrol, line := s.patrol.cursor, phase := .read, target := target, target2 := none
                  leg0 := true, leg1 := false, fallback := none, start := us } }
          out := s.media.out ++ [.read background (s.slot background).epoch target] }
        freeCount := freeCount }
    (s.patrol.sweepReads < 67108864 →
      (s.patrol.due = true →
        exec .patrolReadIssue s = .next (reading s.us (s.patrol.sweepReads + 1) s.freeCount))
      ∧ ∀ at_, s.patrol.timer = some at_ →
        exec .intervalExpiry s = .next (reading (max s.us at_) (s.patrol.sweepReads + 1) s.freeCount))
    ∧ (67108864 ≤ s.patrol.sweepReads → ∃ n, n ≤ 67108864
      ∧ (s.patrol.due = true → exec .patrolReadIssue s = .next (reading s.us n (s.freeCount + 1)))
      ∧ ∀ at_, s.patrol.timer = some at_ →
        exec .intervalExpiry s = .next (reading (max s.us at_) n (s.freeCount + 1))))
  ∧ (∀ s : State,
    s.patrol.state ≠ .waiting ∨ s.patrol.due = false ∨ s.media.failed = true ∨ s.media.drain ≠ none →
      exec .patrolReadIssue s = .next s)
  ∧ (∀ s : State, s.patrol.state = .waiting → s.patrol.due = true → s.media.failed = false → s.media.drain = none →
    let passes (line : Nat) : Prop :=
      line < 2048 * (32768 - s.remap.s) ∧ (s.policy (rowOf line)).scrub = true ∧ s.lineMigrating line = false
    let moved (t : State) (line : Nat) : State := { t with patrol := { t.patrol with cursor := line } }
    let wrapped : State :=
      { s with
        patrol := { s.patrol with cursor := 0, sweepReads := 0 }
        counters := if 1 ≤ s.patrol.sweepReads then (s.count .sweeps).counters else s.counters
        flags := if 1 ≤ s.patrol.sweepReads then s.flags ||| 0x0100 else s.flags }
    (∀ line, passes line → s.patrol.cursor ≤ line → (∀ k, s.patrol.cursor ≤ k → k < line → ¬passes k) →
      exec .patrolReadIssue s = exec .patrolReadIssue (moved s line))
    ∧ (∀ line, passes line → (∀ k, s.patrol.cursor ≤ k → ¬passes k) → (∀ k, k < line → ¬passes k) →
      exec .patrolReadIssue s = exec .patrolReadIssue (moved wrapped line))
    ∧ ((∀ line, ¬passes line) → exec .patrolReadIssue s = .next
      { wrapped with patrol := { wrapped.patrol with due := false, timer := some (s.us + s.patrol.interval) } })
    ∧ (passes s.patrol.cursor →
      (s.slot background).work ≠ none ∨ s.copyReady = true
        ∨ (∃ i ∈ upstreamSlots, (s.slot i).onLine s.patrol.cursor = true) ∨ (∃ e ∈ s.ctl.irq, e.line = s.patrol.cursor) →
      exec .patrolReadIssue s = .next s))
  ∧ (∀ s : State, s.copyReady = true ↔ ∃ c e, s.engine = some c ∧ s.remap.entryAt c.entrySlot = some e
      ∧ c.state = .waitSlot ∧ ∀ i ∈ upstreamSlots, (s.slot i).onLine (lineOf e.row e.bank c.cursor) = false)
  ∧ (∀ s : State, s.patrol.state ≠ .stopped → s.patrol.state ≠ .waiting →
    let after : PatrolState :=
      match s.patrol.state with
      | .stopping _ => .stopped
      | _ => .waiting
    (s.patrol.cursor + 1 < 2048 * (32768 - s.remap.s) →
      s.endPatrolStep = { s with patrol := { s.patrol with state := after, cursor := s.patrol.cursor + 1 } })
    ∧ (2048 * (32768 - s.remap.s) ≤ s.patrol.cursor + 1 →
      s.endPatrolStep =
        { s with
          patrol := { s.patrol with state := after, cursor := 0, sweepReads := 0 }
          counters := if 1 ≤ s.patrol.sweepReads then (s.count .sweeps).counters else s.counters
          flags := if 1 ≤ s.patrol.sweepReads then s.flags ||| 0x0100 else s.flags }))
  ∧ (∀ (s : State) (w : Work) (leg : Bool) (line : StoredLine), (s.slot background).work = some w → w.owner = .patrol →
    w.stage ≠ .orphan → w.phase ≠ .write →
    let d := s.dispatched w line .patrol false 0
    let repair : Option StoredLine :=
      match (classify line).1 with
      | .corrected => some (sealLine (classify line).2)
      | .uncorrectable => some poisonMarker
      | _ => none
    (s.patrol.state = .stopped → exec (.readCompletion background (s.slot background).epoch leg line) s =
      .next (d.freed background))
    ∧ ∀ writing, (s.patrol.state = .reading ∧ writing = .writingBack)
        ∨ ((∃ phase, s.patrol.state = .stopping phase) ∧ writing = .stopping .writeBack) →
      (repair = none → exec (.readCompletion background (s.slot background).epoch leg line) s =
        exec .patrolReadIssue (d.freed background).endPatrolStep)
      ∧ (repair ≠ none → s.patrol.cancel = true →
        exec (.readCompletion background (s.slot background).epoch leg line) s =
          exec .patrolReadIssue ((d.count .scrubCancelled).freed background).endPatrolStep)
      ∧ ∀ stored, repair = some stored → s.patrol.cancel = false →
        exec (.readCompletion background (s.slot background).epoch leg line) s = .next
          ((State.given
            { d with patrol := { s.patrol with state := writing }, counters := (d.count .scrubWritebacks).counters } background
            { w with
              stage := .issuedSecond, phase := .write, target2 := none, leg0 := true, leg1 := false, start := s.us }).placed
            [.write background (s.slot background).epoch false w.target stored]))
  ∧ (∀ (s : State) (w : Work), (s.slot background).work = some w → w.owner = .patrol → w.stage ≠ .orphan → w.phase = .write →
    w.leg0 = true → w.leg1 = false →
    let freed : State := State.freed { s with media := { s.media with timeouts := 0 } } background
    (s.patrol.state = .stopped →
      exec (.writeCompletion background (s.slot background).epoch false) s = .next freed)
    ∧ (s.patrol.state = .writingBack ∨ (∃ phase, s.patrol.state = .stopping phase) →
      exec (.writeCompletion background (s.slot background).epoch false) s = exec .patrolReadIssue freed.endPatrolStep))

/-! ### Injection, log, counters, alert -/

/-- SET_INJECT: the address of an armed slot and every other value are tested, and a slot that passes is replaced whole with its
match counter at 0; CLEAR_INJECT disarms a slot and keeps its other fields (R124, R125). A classified read matches a slot that is armed
for its bank, row, column and origin; one whose row S makes invisible matches no read (R37, R120, R126). Every slot matched counts the
match: ONE_SHOT fires at n and is disarmed, PERIODIC fires at n and returns to 0, CONTINUOUS fires each time and is held at 255 (R121).
The outcomes that reach the read are those of the slots that it fires. -/
def Obligations.InjectCommandsSetTheSlots : Prop :=
  (∀ (s : State) (p : Params),
    (s.takes codeSetInject p →
      let n := paramByte p 9
      let valid := (paramByte p 1 = 1 → paramByte p 2 ≤ 15 ∧ paramHalf p 3 < 32768 - s.remap.s)
        ∧ paramByte p 0 ≤ 3 ∧ paramByte p 1 ≤ 1 ∧ (paramByte p 5 ≤ 127 ∨ paramByte p 5 = 255) ∧ paramByte p 6 ≤ 1
        ∧ 1 ≤ paramByte p 7 ∧ paramByte p 7 ≤ 7 ∧ paramByte p 8 ≤ 2 ∧ (paramByte p 8 ≤ 1 → 1 ≤ n)
      (¬valid → exec .setInject s = .next (s.finished codeSetInject .badParam))
      ∧ (valid → exec .setInject s = .next (State.finished
        { s with inject := (s.inject.setIfInBounds (paramByte p 0)
            { armed := paramByte p 1 == 1, bank := paramByte p 2, row := paramHalf p 3
              column := if paramByte p 5 = 255 then .any else .column (paramByte p 5)
              outcome := if paramByte p 6 = 0 then .corrected else .uncorrectable
              onUpstream := (paramByte p 7).testBit 0, onPatrol := (paramByte p 7).testBit 1
              onCopy := (paramByte p 7).testBit 2
              mode := if paramByte p 8 = 0 then .oneShot else if paramByte p 8 = 1 then .periodic else .continuous
              n := n, count := 0 }) } codeSetInject .ok)))
    ∧ (s.takes codeClearInject p →
      (3 < paramByte p 0 → exec .clearInject s = .next (s.finished codeClearInject .badParam))
      ∧ ∀ k : Fin 4, paramByte p 0 = k.val → exec .clearInject s = .next (State.finished
        { s with inject := s.inject.set k.val { s.inject[k] with armed := false, count := 0 } } codeClearInject .ok)))
  ∧ (∀ (s : State) (i : SlotNo) (w : Work) (leg : Bool) (line : StoredLine), (s.slot i).work = some w → w.stage ≠ .orphan →
    w.phase ≠ .write →
    let matched (x : InjectSlot) : Prop := x.armed = true ∧ x.bank = bankOf w.line ∧ x.row = rowOf w.line
      ∧ x.row < 32768 - s.remap.s ∧ (x.column = .any ∨ x.column = .column (columnOf w.line))
      ∧ match w.owner with
        | .copy => x.onCopy = true
        | .patrol => x.onPatrol = true
        | .upstream _ _ => x.onUpstream = true
    (∃ t, exec (.readCompletion i (s.slot i).epoch leg line) s = .next t
      ∧ ∀ k : Fin 4,
        let x := s.inject[k]
        (¬matched x → t.inject[k] = x)
        ∧ (matched x → x.mode = .oneShot →
          t.inject[k] = { x with count := x.count + 1, armed := decide (x.count + 1 < x.n) })
        ∧ (matched x → x.mode = .periodic →
          t.inject[k] = { x with count := if x.n ≤ x.count + 1 then 0 else x.count + 1 })
        ∧ (matched x → x.mode = .continuous → t.inject[k] = { x with count := min (x.count + 1) 255 }))
    ∧ (∀ o, o ∈ s.firedBy (phaseOrigin w) w.line ↔
      ∃ k : Fin 4, matched s.inject[k] ∧ (s.inject[k].mode = .continuous ∨ s.inject[k].n ≤ s.inject[k].count + 1)
        ∧ s.inject[k].outcome = o)
    ∧ s.outcomeOf (phaseOrigin w) w line = deliver (classify line).1 (s.firedBy (phaseOrigin w) w.line))

/-- READ_FAULT copies the head record to DATA and keeps it; POP_FAULT removes it, and LOG_NONEMPTY clears with the last; both answer
EMPTY on an empty log (R164, R169). A record's 16 bytes are those of R180. A record offered to the log is stored at the tail with the
next sequence number while fewer than 32 are held; else it is dropped, LOG_LOST is counted and LOG_OVERFLOW set (R162). -/
def Obligations.FaultCommandsReadAndPopTheHead : Prop :=
  (∀ (s : State) (p : Params),
    (s.takes codeReadFault p →
      (s.log.records = [] → exec .readFault s = .next (s.finished codeReadFault .empty))
      ∧ ∀ r rest, s.log.records = r :: rest →
        exec .readFault s = .next ((s.putData r.bytes).finished codeReadFault .ok))
    ∧ (s.takes codePopFault p →
      (s.log.records = [] → exec .popFault s = .next (s.finished codePopFault .empty))
      ∧ ∀ r rest, s.log.records = r :: rest → ∃ t, exec .popFault s = .next t
        ∧ t = State.finished { s with log := { s.log with records := rest } } codePopFault .ok
        ∧ (t.flag .logNonempty = true ↔ rest ≠ [])))
  ∧ (∀ r : FaultRecord, r.bytes = r.layout)
  ∧ (∀ (s : State) (o : Offer),
    (s.log.records.length < 32 → s.offerRecord o = { s with log :=
      { records := s.log.records ++ [{ seq := s.log.nextSeq, body := o }], nextSeq := s.log.nextSeq + 1 } })
    ∧ (32 ≤ s.log.records.length →
      s.offerRecord o = { s with counters := (s.count .logLost).counters, flags := s.flags ||| 0x0002 }))

/-- READ_COUNTERS: BAD_PARAM for a group above 2 or a clear choice above 1; else OK with the group's values, and with clear yes the
group at 0 in the same step, the others unchanged; CLEAR_COUNTERS sets all eighteen to 0 (R167). A counted event raises its own counter
by 1, up to 65,535, and changes nothing else (R166). -/
def Obligations.CounterCommandsReadAndClear : Prop :=
  (∀ (s : State) (p : Params),
    let group := paramByte p 0
    let clear := paramByte p 1
    let first := if group = 0 then 0 else if group = 1 then 8 else 12
    let size := if group = 0 then 8 else if group = 1 then 4 else 6
    (s.takes codeReadCounters p →
      (2 < group ∨ 1 < clear → exec .readCounters s = .next (s.finished codeReadCounters .badParam))
      ∧ (group ≤ 2 → clear ≤ 1 → ∃ t, exec .readCounters s = .next t
        ∧ t = State.finished (State.putData { s with counters := t.counters }
            ([BitVec.ofNat 8 group] ++ leBytes 4 s.now.toNat
              ++ ((s.counters.toList.drop first).take size).flatMap (leBytes 2))) codeReadCounters .ok
        ∧ ∀ i : Fin 18, t.counters[i] =
            if clear = 1 ∧ first ≤ i.val ∧ i.val < first + size then 0 else s.counters[i]))
    ∧ (s.takes codeClearCounters p →
      exec .clearCounters s = .next (State.finished { s with counters := Vector.replicate 18 0 } codeClearCounters .ok)))
  ∧ (∀ (s : State) (c : Counter),
    s.count c = { s with counters := (s.count c).counters }
    ∧ ∀ i : Fin 18, (s.count c).counters[i] = if i = c.index then min (s.counters[i] + 1) 65535 else s.counters[i])

/-- SET_ALERT_MASK: BAD_PARAM for an enable in a position that names no flag; else the whole mask is replaced, no flag changes, and
ALERT_N is low exactly when a flag that reads set is enabled (R170, R171). -/
def Obligations.SetAlertMaskReplacesTheMask : Prop :=
  ∀ (s : State) (p : Params), s.takes codeSetAlertMask p →
    let m := paramByte p 0 + 256 * paramByte p 1
    (2048 ≤ m → exec .setAlertMask s = .next (s.finished codeSetAlertMask .badParam))
    ∧ (m < 2048 → ∃ t, exec .setAlertMask s = .next t
      ∧ t = State.finished { s with mask := BitVec.ofNat 16 m } codeSetAlertMask .ok
      ∧ (t.alertLow = true ↔ ∃ f : Flag, s.flag f = true ∧ m.testBit f.bit = true))

/-! ### Laws that every step keeps -/

/-- The laws of the state hold at reset. -/
def Obligations.LawsHoldAtReset : Prop :=
  State.reset.creditsSum ∧ State.reset.ctl.Ok ∧ State.reset.log.Ok ∧ State.reset.watch.Ok ∧ RegionsOk State.reset.regions
    ∧ State.reset.QueueOk ∧ State.reset.TableOk ∧ State.reset.remap.SparesOk ∧ State.reset.countersOk ∧ State.reset.maskOk

/-- Every step keeps the sum of occupancy, credits held and credits pending at 32 (R143). -/
def Obligations.StepKeepsTheCreditSum : Prop :=
  ∀ s t : State, s.creditsSum → step s = .next t → t.creditsSum

/-- Every step keeps the laws of the Inbound Request Queue: unique tags, an empty queue behind a CLOSED gate, and at most one request
of a line at work (R148, R150, R151, R155). -/
def Obligations.StepKeepsTheRequestQueueLaws : Prop :=
  ∀ s t : State, s.ctl.Ok → step s = .next t → t.ctl.Ok

/-- Every step keeps the fault log within 32 records with consecutive sequence numbers (R162); and the region limits in order and within
32,768, the counters within 65,535, the alert mask within the flag positions (R15, R166, R171). -/
def Obligations.StepKeepsLogRegionsCountersAndMask : Prop :=
  (∀ s t : State, s.log.Ok → step s = .next t → t.log.Ok)
  ∧ (∀ s t : State, RegionsOk s.regions ∧ s.countersOk ∧ s.maskOk → step s = .next t →
    RegionsOk t.regions ∧ t.countersOk ∧ t.maskOk)

/-- Every step keeps the laws of the Watch List (R89, R91). -/
def Obligations.StepKeepsTheWatchListLaws : Prop :=
  ∀ s t : State, s.watch.Ok → step s = .next t → t.watch.Ok

/-- Every step keeps the laws of the Sparing Request Queue: at most 8 requests, none twice, none of the row that is MIGRATING (R46). -/
def Obligations.StepKeepsTheSparingQueueLaws : Prop :=
  ∀ s t : State, s.QueueOk → step s = .next t → t.QueueOk

/-- Every step keeps the Remap Table and the Migration Engine in step: unique keys in rising slots, at most one MIGRATING entry, and
the engine IDLE exactly when there is none (R26, R52). -/
def Obligations.StepKeepsTableAndEngineInStep : Prop :=
  ∀ s t : State, s.TableOk → step s = .next t → t.TableOk

/-- Every step keeps the ASSIGNED spares exactly those that the table's entries hold, each held once (R26, R30). -/
def Obligations.StepKeepsAssignedSparesHeld : Prop :=
  ∀ s t : State, s.TableOk ∧ s.remap.SparesOk → step s = .next t → t.remap.SparesOk
end

