-- ==== Sys2Proof/Laws/State.lean ====
section
/-! SUPPORT. One lemma per operation: the fields each named update leaves as they were. -/

namespace Sys2Proof.Machine

variable (s : State)

@[simp] theorem State.advanceTo_frame (t : Nat) :
    (s.advanceTo t).remap = s.remap ∧ (s.advanceTo t).regions = s.regions ∧ (s.advanceTo t).srq = s.srq ∧
    (s.advanceTo t).engine = s.engine ∧ (s.advanceTo t).watch = s.watch ∧ (s.advanceTo t).patrol = s.patrol ∧
    (s.advanceTo t).inject = s.inject ∧ (s.advanceTo t).media = s.media ∧ (s.advanceTo t).ctl = s.ctl ∧
    (s.advanceTo t).log = s.log ∧ (s.advanceTo t).counters = s.counters ∧ (s.advanceTo t).flags = s.flags ∧
    (s.advanceTo t).mask = s.mask ∧ (s.advanceTo t).mgmt = s.mgmt ∧ (s.advanceTo t).freeCount = s.freeCount ∧
    (s.advanceTo t).pending = s.pending :=
    ⟨rfl, rfl, rfl, rfl, rfl, rfl, rfl, rfl, rfl, rfl, rfl, rfl, rfl, rfl, rfl, rfl⟩

@[simp] theorem State.setFlag_frame (f : Flag) :
    (s.setFlag f).us = s.us ∧ (s.setFlag f).remap = s.remap ∧ (s.setFlag f).regions = s.regions ∧
    (s.setFlag f).srq = s.srq ∧ (s.setFlag f).engine = s.engine ∧ (s.setFlag f).watch = s.watch ∧
    (s.setFlag f).patrol = s.patrol ∧ (s.setFlag f).inject = s.inject ∧ (s.setFlag f).media = s.media ∧
    (s.setFlag f).ctl = s.ctl ∧ (s.setFlag f).log = s.log ∧ (s.setFlag f).counters = s.counters ∧
    (s.setFlag f).mask = s.mask ∧ (s.setFlag f).mgmt = s.mgmt ∧ (s.setFlag f).freeCount = s.freeCount ∧
    (s.setFlag f).pending = s.pending :=
    ⟨rfl, rfl, rfl, rfl, rfl, rfl, rfl, rfl, rfl, rfl, rfl, rfl, rfl, rfl, rfl, rfl⟩

@[simp] theorem State.clearFlags_frame (which : FlagByte) (value : Byte) :
    (s.clearFlags which value).us = s.us ∧ (s.clearFlags which value).remap = s.remap ∧
    (s.clearFlags which value).regions = s.regions ∧ (s.clearFlags which value).srq = s.srq ∧
    (s.clearFlags which value).engine = s.engine ∧ (s.clearFlags which value).watch = s.watch ∧
    (s.clearFlags which value).patrol = s.patrol ∧ (s.clearFlags which value).inject = s.inject ∧
    (s.clearFlags which value).media = s.media ∧ (s.clearFlags which value).ctl = s.ctl ∧
    (s.clearFlags which value).log = s.log ∧ (s.clearFlags which value).counters = s.counters ∧
    (s.clearFlags which value).mask = s.mask ∧ (s.clearFlags which value).mgmt = s.mgmt ∧
    (s.clearFlags which value).freeCount = s.freeCount ∧ (s.clearFlags which value).pending = s.pending := by
  cases which <;> exact ⟨rfl, rfl, rfl, rfl, rfl, rfl, rfl, rfl, rfl, rfl, rfl, rfl, rfl, rfl, rfl, rfl⟩

@[simp] theorem State.count_frame (c : Counter) :
    (s.count c).us = s.us ∧ (s.count c).remap = s.remap ∧ (s.count c).regions = s.regions ∧ (s.count c).srq = s.srq ∧
    (s.count c).engine = s.engine ∧ (s.count c).watch = s.watch ∧ (s.count c).patrol = s.patrol ∧
    (s.count c).inject = s.inject ∧ (s.count c).media = s.media ∧ (s.count c).ctl = s.ctl ∧ (s.count c).log = s.log ∧
    (s.count c).flags = s.flags ∧ (s.count c).mask = s.mask ∧ (s.count c).mgmt = s.mgmt ∧
    (s.count c).freeCount = s.freeCount ∧ (s.count c).pending = s.pending :=
    ⟨rfl, rfl, rfl, rfl, rfl, rfl, rfl, rfl, rfl, rfl, rfl, rfl, rfl, rfl, rfl, rfl⟩

@[simp] theorem State.clearGroup_frame (g : Nat) :
    (s.clearGroup g).us = s.us ∧ (s.clearGroup g).remap = s.remap ∧ (s.clearGroup g).regions = s.regions ∧
    (s.clearGroup g).srq = s.srq ∧ (s.clearGroup g).engine = s.engine ∧ (s.clearGroup g).watch = s.watch ∧
    (s.clearGroup g).patrol = s.patrol ∧ (s.clearGroup g).inject = s.inject ∧ (s.clearGroup g).media = s.media ∧
    (s.clearGroup g).ctl = s.ctl ∧ (s.clearGroup g).log = s.log ∧ (s.clearGroup g).flags = s.flags ∧
    (s.clearGroup g).mask = s.mask ∧ (s.clearGroup g).mgmt = s.mgmt ∧ (s.clearGroup g).freeCount = s.freeCount ∧
    (s.clearGroup g).pending = s.pending := by simp [State.clearGroup]

@[simp] theorem State.send_frame (m : CtlMsg) :
    (s.send m).us = s.us ∧ (s.send m).remap = s.remap ∧ (s.send m).regions = s.regions ∧ (s.send m).srq = s.srq ∧
    (s.send m).engine = s.engine ∧ (s.send m).watch = s.watch ∧ (s.send m).patrol = s.patrol ∧
    (s.send m).inject = s.inject ∧ (s.send m).media = s.media ∧ (s.send m).log = s.log ∧ (s.send m).counters = s.counters ∧
    (s.send m).flags = s.flags ∧ (s.send m).mask = s.mask ∧ (s.send m).mgmt = s.mgmt ∧ (s.send m).freeCount = s.freeCount ∧
    (s.send m).pending = s.pending :=
    ⟨rfl, rfl, rfl, rfl, rfl, rfl, rfl, rfl, rfl, rfl, rfl, rfl, rfl, rfl, rfl, rfl⟩

@[simp] theorem State.issueOp_frame (op : MediaOp) :
    (s.issueOp op).us = s.us ∧ (s.issueOp op).remap = s.remap ∧ (s.issueOp op).regions = s.regions ∧
    (s.issueOp op).srq = s.srq ∧ (s.issueOp op).engine = s.engine ∧ (s.issueOp op).watch = s.watch ∧
    (s.issueOp op).patrol = s.patrol ∧ (s.issueOp op).inject = s.inject ∧ (s.issueOp op).ctl = s.ctl ∧
    (s.issueOp op).log = s.log ∧ (s.issueOp op).counters = s.counters ∧ (s.issueOp op).flags = s.flags ∧
    (s.issueOp op).mask = s.mask ∧ (s.issueOp op).mgmt = s.mgmt ∧ (s.issueOp op).freeCount = s.freeCount ∧
    (s.issueOp op).pending = s.pending :=
    ⟨rfl, rfl, rfl, rfl, rfl, rfl, rfl, rfl, rfl, rfl, rfl, rfl, rfl, rfl, rfl, rfl⟩

@[simp] theorem State.putEntry_frame (n : Nat) (e : RemapEntry) :
    (s.putEntry n e).us = s.us ∧ (s.putEntry n e).regions = s.regions ∧ (s.putEntry n e).srq = s.srq ∧
    (s.putEntry n e).engine = s.engine ∧ (s.putEntry n e).watch = s.watch ∧ (s.putEntry n e).patrol = s.patrol ∧
    (s.putEntry n e).inject = s.inject ∧ (s.putEntry n e).media = s.media ∧ (s.putEntry n e).ctl = s.ctl ∧
    (s.putEntry n e).log = s.log ∧ (s.putEntry n e).counters = s.counters ∧ (s.putEntry n e).flags = s.flags ∧
    (s.putEntry n e).mask = s.mask ∧ (s.putEntry n e).mgmt = s.mgmt ∧ (s.putEntry n e).freeCount = s.freeCount ∧
    (s.putEntry n e).pending = s.pending :=
    ⟨rfl, rfl, rfl, rfl, rfl, rfl, rfl, rfl, rfl, rfl, rfl, rfl, rfl, rfl, rfl, rfl⟩

@[simp] theorem State.dropSlot_frame (n : Nat) :
    (s.dropSlot n).us = s.us ∧ (s.dropSlot n).regions = s.regions ∧ (s.dropSlot n).srq = s.srq ∧
    (s.dropSlot n).engine = s.engine ∧ (s.dropSlot n).watch = s.watch ∧ (s.dropSlot n).patrol = s.patrol ∧
    (s.dropSlot n).inject = s.inject ∧ (s.dropSlot n).media = s.media ∧ (s.dropSlot n).ctl = s.ctl ∧
    (s.dropSlot n).log = s.log ∧ (s.dropSlot n).counters = s.counters ∧ (s.dropSlot n).flags = s.flags ∧
    (s.dropSlot n).mask = s.mask ∧ (s.dropSlot n).mgmt = s.mgmt ∧ (s.dropSlot n).freeCount = s.freeCount ∧
    (s.dropSlot n).pending = s.pending :=
    ⟨rfl, rfl, rfl, rfl, rfl, rfl, rfl, rfl, rfl, rfl, rfl, rfl, rfl, rfl, rfl, rfl⟩

@[simp] theorem State.returnSpare_frame (b k : Nat) :
    (s.returnSpare b k).us = s.us ∧ (s.returnSpare b k).regions = s.regions ∧ (s.returnSpare b k).srq = s.srq ∧
    (s.returnSpare b k).engine = s.engine ∧ (s.returnSpare b k).watch = s.watch ∧ (s.returnSpare b k).patrol = s.patrol ∧
    (s.returnSpare b k).inject = s.inject ∧ (s.returnSpare b k).media = s.media ∧ (s.returnSpare b k).ctl = s.ctl ∧
    (s.returnSpare b k).log = s.log ∧ (s.returnSpare b k).counters = s.counters ∧ (s.returnSpare b k).flags = s.flags ∧
    (s.returnSpare b k).mask = s.mask ∧ (s.returnSpare b k).mgmt = s.mgmt ∧ (s.returnSpare b k).freeCount = s.freeCount ∧
    (s.returnSpare b k).pending = s.pending :=
    ⟨rfl, rfl, rfl, rfl, rfl, rfl, rfl, rfl, rfl, rfl, rfl, rfl, rfl, rfl, rfl, rfl⟩

@[simp] theorem State.retireSpare_frame (b k : Nat) :
    (s.retireSpare b k).us = s.us ∧ (s.retireSpare b k).regions = s.regions ∧ (s.retireSpare b k).srq = s.srq ∧
    (s.retireSpare b k).engine = s.engine ∧ (s.retireSpare b k).watch = s.watch ∧ (s.retireSpare b k).patrol = s.patrol ∧
    (s.retireSpare b k).inject = s.inject ∧ (s.retireSpare b k).media = s.media ∧ (s.retireSpare b k).ctl = s.ctl ∧
    (s.retireSpare b k).log = s.log ∧ (s.retireSpare b k).counters = s.counters ∧ (s.retireSpare b k).flags = s.flags ∧
    (s.retireSpare b k).mask = s.mask ∧ (s.retireSpare b k).mgmt = s.mgmt ∧ (s.retireSpare b k).freeCount = s.freeCount ∧
    (s.retireSpare b k).pending = s.pending :=
    ⟨rfl, rfl, rfl, rfl, rfl, rfl, rfl, rfl, rfl, rfl, rfl, rfl, rfl, rfl, rfl, rfl⟩

@[simp] theorem State.setSlot_frame (i : SlotNo) (m : MediaSlot) :
    (s.setSlot i m).us = s.us ∧ (s.setSlot i m).remap = s.remap ∧ (s.setSlot i m).regions = s.regions ∧
    (s.setSlot i m).srq = s.srq ∧ (s.setSlot i m).engine = s.engine ∧ (s.setSlot i m).watch = s.watch ∧
    (s.setSlot i m).patrol = s.patrol ∧ (s.setSlot i m).inject = s.inject ∧ (s.setSlot i m).ctl = s.ctl ∧
    (s.setSlot i m).log = s.log ∧ (s.setSlot i m).counters = s.counters ∧ (s.setSlot i m).flags = s.flags ∧
    (s.setSlot i m).mask = s.mask ∧ (s.setSlot i m).mgmt = s.mgmt ∧ (s.setSlot i m).freeCount = s.freeCount ∧
    (s.setSlot i m).pending = s.pending :=
    ⟨rfl, rfl, rfl, rfl, rfl, rfl, rfl, rfl, rfl, rfl, rfl, rfl, rfl, rfl, rfl, rfl⟩

@[simp] theorem State.setWork_frame (i : SlotNo) (w : Work) :
    (s.setWork i w).us = s.us ∧ (s.setWork i w).remap = s.remap ∧ (s.setWork i w).regions = s.regions ∧
    (s.setWork i w).srq = s.srq ∧ (s.setWork i w).engine = s.engine ∧ (s.setWork i w).watch = s.watch ∧
    (s.setWork i w).patrol = s.patrol ∧ (s.setWork i w).inject = s.inject ∧ (s.setWork i w).ctl = s.ctl ∧
    (s.setWork i w).log = s.log ∧ (s.setWork i w).counters = s.counters ∧ (s.setWork i w).flags = s.flags ∧
    (s.setWork i w).mask = s.mask ∧ (s.setWork i w).mgmt = s.mgmt ∧ (s.setWork i w).freeCount = s.freeCount ∧
    (s.setWork i w).pending = s.pending :=
    ⟨rfl, rfl, rfl, rfl, rfl, rfl, rfl, rfl, rfl, rfl, rfl, rfl, rfl, rfl, rfl, rfl⟩

@[simp] theorem State.freeSlot_frame (i : SlotNo) :
    (s.freeSlot i).us = s.us ∧ (s.freeSlot i).remap = s.remap ∧ (s.freeSlot i).regions = s.regions ∧
    (s.freeSlot i).srq = s.srq ∧ (s.freeSlot i).engine = s.engine ∧ (s.freeSlot i).watch = s.watch ∧
    (s.freeSlot i).patrol = s.patrol ∧ (s.freeSlot i).inject = s.inject ∧ (s.freeSlot i).ctl = s.ctl ∧
    (s.freeSlot i).log = s.log ∧ (s.freeSlot i).counters = s.counters ∧ (s.freeSlot i).flags = s.flags ∧
    (s.freeSlot i).mask = s.mask ∧ (s.freeSlot i).mgmt = s.mgmt ∧ (s.freeSlot i).freeCount = s.freeCount ∧
    (s.freeSlot i).pending = s.pending :=
    ⟨rfl, rfl, rfl, rfl, rfl, rfl, rfl, rfl, rfl, rfl, rfl, rfl, rfl, rfl, rfl, rfl⟩

@[simp] theorem State.setEntryState_frame (tag : Tag) (st : IrqState) :
    (s.setEntryState tag st).us = s.us ∧ (s.setEntryState tag st).remap = s.remap ∧
    (s.setEntryState tag st).regions = s.regions ∧ (s.setEntryState tag st).srq = s.srq ∧
    (s.setEntryState tag st).engine = s.engine ∧ (s.setEntryState tag st).watch = s.watch ∧
    (s.setEntryState tag st).patrol = s.patrol ∧ (s.setEntryState tag st).inject = s.inject ∧
    (s.setEntryState tag st).media = s.media ∧ (s.setEntryState tag st).log = s.log ∧
    (s.setEntryState tag st).counters = s.counters ∧ (s.setEntryState tag st).flags = s.flags ∧
    (s.setEntryState tag st).mask = s.mask ∧ (s.setEntryState tag st).mgmt = s.mgmt ∧
    (s.setEntryState tag st).freeCount = s.freeCount ∧ (s.setEntryState tag st).pending = s.pending :=
    ⟨rfl, rfl, rfl, rfl, rfl, rfl, rfl, rfl, rfl, rfl, rfl, rfl, rfl, rfl, rfl, rfl⟩

@[simp] theorem State.releaseHeld_frame (which : Nat → Bool) :
    (s.releaseHeld which).us = s.us ∧ (s.releaseHeld which).remap = s.remap ∧ (s.releaseHeld which).regions = s.regions ∧
    (s.releaseHeld which).srq = s.srq ∧ (s.releaseHeld which).engine = s.engine ∧ (s.releaseHeld which).watch = s.watch ∧
    (s.releaseHeld which).patrol = s.patrol ∧ (s.releaseHeld which).inject = s.inject ∧
    (s.releaseHeld which).media = s.media ∧ (s.releaseHeld which).log = s.log ∧
    (s.releaseHeld which).counters = s.counters ∧ (s.releaseHeld which).flags = s.flags ∧
    (s.releaseHeld which).mask = s.mask ∧ (s.releaseHeld which).mgmt = s.mgmt ∧
    (s.releaseHeld which).freeCount = s.freeCount ∧ (s.releaseHeld which).pending = s.pending :=
    ⟨rfl, rfl, rfl, rfl, rfl, rfl, rfl, rfl, rfl, rfl, rfl, rfl, rfl, rfl, rfl, rfl⟩

@[simp] theorem State.holdLine_frame (line : Nat) :
    (s.holdLine line).us = s.us ∧ (s.holdLine line).remap = s.remap ∧ (s.holdLine line).regions = s.regions ∧
    (s.holdLine line).srq = s.srq ∧ (s.holdLine line).engine = s.engine ∧ (s.holdLine line).watch = s.watch ∧
    (s.holdLine line).patrol = s.patrol ∧ (s.holdLine line).inject = s.inject ∧ (s.holdLine line).media = s.media ∧
    (s.holdLine line).log = s.log ∧ (s.holdLine line).counters = s.counters ∧ (s.holdLine line).flags = s.flags ∧
    (s.holdLine line).mask = s.mask ∧ (s.holdLine line).mgmt = s.mgmt ∧ (s.holdLine line).freeCount = s.freeCount ∧
    (s.holdLine line).pending = s.pending :=
    ⟨rfl, rfl, rfl, rfl, rfl, rfl, rfl, rfl, rfl, rfl, rfl, rfl, rfl, rfl, rfl, rfl⟩

@[simp] theorem State.runPass_frame (f : IrqEntry → Option CtlMsg) :
    (s.runPass f).us = s.us ∧ (s.runPass f).remap = s.remap ∧ (s.runPass f).regions = s.regions ∧
    (s.runPass f).srq = s.srq ∧ (s.runPass f).engine = s.engine ∧ (s.runPass f).watch = s.watch ∧
    (s.runPass f).patrol = s.patrol ∧ (s.runPass f).inject = s.inject ∧ (s.runPass f).media = s.media ∧
    (s.runPass f).log = s.log ∧ (s.runPass f).counters = s.counters ∧ (s.runPass f).flags = s.flags ∧
    (s.runPass f).mask = s.mask ∧ (s.runPass f).mgmt = s.mgmt ∧ (s.runPass f).freeCount = s.freeCount ∧
    (s.runPass f).pending = s.pending :=
    ⟨rfl, rfl, rfl, rfl, rfl, rfl, rfl, rfl, rfl, rfl, rfl, rfl, rfl, rfl, rfl, rfl⟩

@[simp] theorem State.returnCredit_frame :
    s.returnCredit.us = s.us ∧ s.returnCredit.remap = s.remap ∧ s.returnCredit.regions = s.regions ∧
    s.returnCredit.srq = s.srq ∧ s.returnCredit.engine = s.engine ∧ s.returnCredit.watch = s.watch ∧
    s.returnCredit.patrol = s.patrol ∧ s.returnCredit.inject = s.inject ∧ s.returnCredit.media = s.media ∧
    s.returnCredit.log = s.log ∧ s.returnCredit.counters = s.counters ∧ s.returnCredit.flags = s.flags ∧
    s.returnCredit.mask = s.mask ∧ s.returnCredit.mgmt = s.mgmt ∧ s.returnCredit.freeCount = s.freeCount ∧
    s.returnCredit.pending = s.pending :=
    ⟨rfl, rfl, rfl, rfl, rfl, rfl, rfl, rfl, rfl, rfl, rfl, rfl, rfl, rfl, rfl, rfl⟩

@[simp] theorem State.setGate_frame (g : Gate) :
    (s.setGate g).us = s.us ∧ (s.setGate g).remap = s.remap ∧ (s.setGate g).regions = s.regions ∧
    (s.setGate g).srq = s.srq ∧ (s.setGate g).engine = s.engine ∧ (s.setGate g).watch = s.watch ∧
    (s.setGate g).patrol = s.patrol ∧ (s.setGate g).inject = s.inject ∧ (s.setGate g).media = s.media ∧
    (s.setGate g).log = s.log ∧ (s.setGate g).counters = s.counters ∧ (s.setGate g).flags = s.flags ∧
    (s.setGate g).mask = s.mask ∧ (s.setGate g).mgmt = s.mgmt ∧ (s.setGate g).freeCount = s.freeCount ∧
    (s.setGate g).pending = s.pending :=
    ⟨rfl, rfl, rfl, rfl, rfl, rfl, rfl, rfl, rfl, rfl, rfl, rfl, rfl, rfl, rfl, rfl⟩

@[simp] theorem State.setWatch_frame (es : List WatchEntry) :
    (s.setWatch es).us = s.us ∧ (s.setWatch es).remap = s.remap ∧ (s.setWatch es).regions = s.regions ∧
    (s.setWatch es).srq = s.srq ∧ (s.setWatch es).engine = s.engine ∧ (s.setWatch es).patrol = s.patrol ∧
    (s.setWatch es).inject = s.inject ∧ (s.setWatch es).media = s.media ∧ (s.setWatch es).ctl = s.ctl ∧
    (s.setWatch es).log = s.log ∧ (s.setWatch es).counters = s.counters ∧ (s.setWatch es).flags = s.flags ∧
    (s.setWatch es).mask = s.mask ∧ (s.setWatch es).mgmt = s.mgmt ∧ (s.setWatch es).freeCount = s.freeCount ∧
    (s.setWatch es).pending = s.pending :=
    ⟨rfl, rfl, rfl, rfl, rfl, rfl, rfl, rfl, rfl, rfl, rfl, rfl, rfl, rfl, rfl, rfl⟩

@[simp] theorem State.countMatches_frame (o : Origin) (line : Nat) :
    (s.countMatches o line).us = s.us ∧ (s.countMatches o line).remap = s.remap ∧
    (s.countMatches o line).regions = s.regions ∧ (s.countMatches o line).srq = s.srq ∧
    (s.countMatches o line).engine = s.engine ∧ (s.countMatches o line).watch = s.watch ∧
    (s.countMatches o line).patrol = s.patrol ∧ (s.countMatches o line).media = s.media ∧
    (s.countMatches o line).ctl = s.ctl ∧ (s.countMatches o line).log = s.log ∧
    (s.countMatches o line).counters = s.counters ∧ (s.countMatches o line).flags = s.flags ∧
    (s.countMatches o line).mask = s.mask ∧ (s.countMatches o line).mgmt = s.mgmt ∧
    (s.countMatches o line).freeCount = s.freeCount ∧ (s.countMatches o line).pending = s.pending := by simp [State.countMatches]

@[simp] theorem State.setPatrol_frame (p : Patrol) :
    (s.setPatrol p).us = s.us ∧ (s.setPatrol p).remap = s.remap ∧ (s.setPatrol p).regions = s.regions ∧
    (s.setPatrol p).srq = s.srq ∧ (s.setPatrol p).engine = s.engine ∧ (s.setPatrol p).watch = s.watch ∧
    (s.setPatrol p).inject = s.inject ∧ (s.setPatrol p).media = s.media ∧ (s.setPatrol p).ctl = s.ctl ∧
    (s.setPatrol p).log = s.log ∧ (s.setPatrol p).counters = s.counters ∧ (s.setPatrol p).flags = s.flags ∧
    (s.setPatrol p).mask = s.mask ∧ (s.setPatrol p).mgmt = s.mgmt ∧ (s.setPatrol p).freeCount = s.freeCount ∧
    (s.setPatrol p).pending = s.pending :=
    ⟨rfl, rfl, rfl, rfl, rfl, rfl, rfl, rfl, rfl, rfl, rfl, rfl, rfl, rfl, rfl, rfl⟩

@[simp] theorem State.moveCursor_frame (line : Nat) :
    (s.moveCursor line).us = s.us ∧ (s.moveCursor line).remap = s.remap ∧ (s.moveCursor line).regions = s.regions ∧
    (s.moveCursor line).srq = s.srq ∧ (s.moveCursor line).engine = s.engine ∧ (s.moveCursor line).watch = s.watch ∧
    (s.moveCursor line).inject = s.inject ∧ (s.moveCursor line).media = s.media ∧ (s.moveCursor line).ctl = s.ctl ∧
    (s.moveCursor line).log = s.log ∧ (s.moveCursor line).counters = s.counters ∧ (s.moveCursor line).flags = s.flags ∧
    (s.moveCursor line).mask = s.mask ∧ (s.moveCursor line).mgmt = s.mgmt ∧ (s.moveCursor line).freeCount = s.freeCount ∧
    (s.moveCursor line).pending = s.pending :=
    ⟨rfl, rfl, rfl, rfl, rfl, rfl, rfl, rfl, rfl, rfl, rfl, rfl, rfl, rfl, rfl, rfl⟩

@[simp] theorem State.stopPatrol_frame :
    s.stopPatrol.us = s.us ∧ s.stopPatrol.remap = s.remap ∧ s.stopPatrol.regions = s.regions ∧ s.stopPatrol.srq = s.srq ∧
    s.stopPatrol.engine = s.engine ∧ s.stopPatrol.watch = s.watch ∧ s.stopPatrol.inject = s.inject ∧
    s.stopPatrol.media = s.media ∧ s.stopPatrol.ctl = s.ctl ∧ s.stopPatrol.log = s.log ∧
    s.stopPatrol.counters = s.counters ∧ s.stopPatrol.flags = s.flags ∧ s.stopPatrol.mask = s.mask ∧
    s.stopPatrol.mgmt = s.mgmt ∧ s.stopPatrol.freeCount = s.freeCount ∧ s.stopPatrol.pending = s.pending :=
    ⟨rfl, rfl, rfl, rfl, rfl, rfl, rfl, rfl, rfl, rfl, rfl, rfl, rfl, rfl, rfl, rfl⟩

@[simp] theorem State.haltPatrol_frame (p : PatrolState) :
    (s.haltPatrol p).us = s.us ∧ (s.haltPatrol p).remap = s.remap ∧ (s.haltPatrol p).regions = s.regions ∧
    (s.haltPatrol p).srq = s.srq ∧ (s.haltPatrol p).engine = s.engine ∧ (s.haltPatrol p).watch = s.watch ∧
    (s.haltPatrol p).inject = s.inject ∧ (s.haltPatrol p).media = s.media ∧ (s.haltPatrol p).ctl = s.ctl ∧
    (s.haltPatrol p).log = s.log ∧ (s.haltPatrol p).counters = s.counters ∧ (s.haltPatrol p).flags = s.flags ∧
    (s.haltPatrol p).mask = s.mask ∧ (s.haltPatrol p).mgmt = s.mgmt ∧ (s.haltPatrol p).freeCount = s.freeCount ∧
    (s.haltPatrol p).pending = s.pending :=
    ⟨rfl, rfl, rfl, rfl, rfl, rfl, rfl, rfl, rfl, rfl, rfl, rfl, rfl, rfl, rfl, rfl⟩

@[simp] theorem State.clearTimeouts_frame :
    s.clearTimeouts.us = s.us ∧ s.clearTimeouts.remap = s.remap ∧ s.clearTimeouts.regions = s.regions ∧
    s.clearTimeouts.srq = s.srq ∧ s.clearTimeouts.engine = s.engine ∧ s.clearTimeouts.watch = s.watch ∧
    s.clearTimeouts.patrol = s.patrol ∧ s.clearTimeouts.inject = s.inject ∧ s.clearTimeouts.ctl = s.ctl ∧
    s.clearTimeouts.log = s.log ∧ s.clearTimeouts.counters = s.counters ∧ s.clearTimeouts.flags = s.flags ∧
    s.clearTimeouts.mask = s.mask ∧ s.clearTimeouts.mgmt = s.mgmt ∧ s.clearTimeouts.freeCount = s.freeCount ∧
    s.clearTimeouts.pending = s.pending :=
    ⟨rfl, rfl, rfl, rfl, rfl, rfl, rfl, rfl, rfl, rfl, rfl, rfl, rfl, rfl, rfl, rfl⟩

@[simp] theorem State.detachUpstream_frame :
    s.detachUpstream.us = s.us ∧ s.detachUpstream.remap = s.remap ∧ s.detachUpstream.regions = s.regions ∧
    s.detachUpstream.srq = s.srq ∧ s.detachUpstream.engine = s.engine ∧ s.detachUpstream.watch = s.watch ∧
    s.detachUpstream.patrol = s.patrol ∧ s.detachUpstream.inject = s.inject ∧ s.detachUpstream.ctl = s.ctl ∧
    s.detachUpstream.log = s.log ∧ s.detachUpstream.counters = s.counters ∧ s.detachUpstream.flags = s.flags ∧
    s.detachUpstream.mask = s.mask ∧ s.detachUpstream.mgmt = s.mgmt ∧ s.detachUpstream.freeCount = s.freeCount ∧
    s.detachUpstream.pending = s.pending := by simp [State.detachUpstream]

@[simp] theorem State.warmInject_frame :
    s.warmInject.us = s.us ∧ s.warmInject.remap = s.remap ∧ s.warmInject.regions = s.regions ∧ s.warmInject.srq = s.srq ∧
    s.warmInject.engine = s.engine ∧ s.warmInject.watch = s.watch ∧ s.warmInject.patrol = s.patrol ∧
    s.warmInject.media = s.media ∧ s.warmInject.ctl = s.ctl ∧ s.warmInject.log = s.log ∧
    s.warmInject.counters = s.counters ∧ s.warmInject.flags = s.flags ∧ s.warmInject.mask = s.mask ∧
    s.warmInject.mgmt = s.mgmt ∧ s.warmInject.freeCount = s.freeCount ∧ s.warmInject.pending = s.pending := by simp [State.warmInject]

@[simp] theorem State.warmMedia_frame :
    s.warmMedia.us = s.us ∧ s.warmMedia.remap = s.remap ∧ s.warmMedia.regions = s.regions ∧ s.warmMedia.srq = s.srq ∧
    s.warmMedia.engine = s.engine ∧ s.warmMedia.watch = s.watch ∧ s.warmMedia.patrol = s.patrol ∧
    s.warmMedia.inject = s.inject ∧ s.warmMedia.ctl = s.ctl ∧ s.warmMedia.log = s.log ∧ s.warmMedia.counters = s.counters ∧
    s.warmMedia.flags = s.flags ∧ s.warmMedia.mask = s.mask ∧ s.warmMedia.mgmt = s.mgmt ∧
    s.warmMedia.freeCount = s.freeCount ∧ s.warmMedia.pending = s.pending := by simp [State.warmMedia]

@[simp] theorem State.rebuild_frame (n : Nat) :
    (s.rebuild n).us = s.us ∧ (s.rebuild n).regions = s.regions ∧ (s.rebuild n).engine = s.engine ∧
    (s.rebuild n).watch = s.watch ∧ (s.rebuild n).patrol = s.patrol ∧ (s.rebuild n).inject = s.inject ∧
    (s.rebuild n).media = s.media ∧ (s.rebuild n).ctl = s.ctl ∧ (s.rebuild n).log = s.log ∧
    (s.rebuild n).counters = s.counters ∧ (s.rebuild n).flags = s.flags ∧ (s.rebuild n).mask = s.mask ∧
    (s.rebuild n).mgmt = s.mgmt ∧ (s.rebuild n).freeCount = s.freeCount ∧ (s.rebuild n).pending = s.pending :=
    ⟨rfl, rfl, rfl, rfl, rfl, rfl, rfl, rfl, rfl, rfl, rfl, rfl, rfl, rfl, rfl⟩

@[simp] theorem State.setMgmt_frame (m : Mgmt) :
    (s.setMgmt m).us = s.us ∧ (s.setMgmt m).remap = s.remap ∧ (s.setMgmt m).regions = s.regions ∧
    (s.setMgmt m).srq = s.srq ∧ (s.setMgmt m).engine = s.engine ∧ (s.setMgmt m).watch = s.watch ∧
    (s.setMgmt m).patrol = s.patrol ∧ (s.setMgmt m).inject = s.inject ∧ (s.setMgmt m).media = s.media ∧
    (s.setMgmt m).ctl = s.ctl ∧ (s.setMgmt m).log = s.log ∧ (s.setMgmt m).counters = s.counters ∧
    (s.setMgmt m).flags = s.flags ∧ (s.setMgmt m).mask = s.mask ∧ (s.setMgmt m).freeCount = s.freeCount ∧
    (s.setMgmt m).pending = s.pending :=
    ⟨rfl, rfl, rfl, rfl, rfl, rfl, rfl, rfl, rfl, rfl, rfl, rfl, rfl, rfl, rfl, rfl⟩

@[simp] theorem State.putData_frame (b : List Byte) :
    (s.putData b).us = s.us ∧ (s.putData b).remap = s.remap ∧ (s.putData b).regions = s.regions ∧
    (s.putData b).srq = s.srq ∧ (s.putData b).engine = s.engine ∧ (s.putData b).watch = s.watch ∧
    (s.putData b).patrol = s.patrol ∧ (s.putData b).inject = s.inject ∧ (s.putData b).media = s.media ∧
    (s.putData b).ctl = s.ctl ∧ (s.putData b).log = s.log ∧ (s.putData b).counters = s.counters ∧
    (s.putData b).flags = s.flags ∧ (s.putData b).mask = s.mask ∧ (s.putData b).freeCount = s.freeCount ∧
    (s.putData b).pending = s.pending := by simp [State.putData]

@[simp] theorem State.putDataX_frame (b : List Byte) :
    (s.putDataX b).us = s.us ∧ (s.putDataX b).remap = s.remap ∧ (s.putDataX b).regions = s.regions ∧
    (s.putDataX b).srq = s.srq ∧ (s.putDataX b).engine = s.engine ∧ (s.putDataX b).watch = s.watch ∧
    (s.putDataX b).patrol = s.patrol ∧ (s.putDataX b).inject = s.inject ∧ (s.putDataX b).media = s.media ∧
    (s.putDataX b).ctl = s.ctl ∧ (s.putDataX b).log = s.log ∧ (s.putDataX b).counters = s.counters ∧
    (s.putDataX b).flags = s.flags ∧ (s.putDataX b).mask = s.mask ∧ (s.putDataX b).freeCount = s.freeCount ∧
    (s.putDataX b).pending = s.pending := by simp [State.putDataX]

@[simp] theorem State.complete_frame (r : ResultCode) :
    (s.complete r).us = s.us ∧ (s.complete r).remap = s.remap ∧ (s.complete r).regions = s.regions ∧
    (s.complete r).srq = s.srq ∧ (s.complete r).engine = s.engine ∧ (s.complete r).watch = s.watch ∧
    (s.complete r).patrol = s.patrol ∧ (s.complete r).inject = s.inject ∧ (s.complete r).media = s.media ∧
    (s.complete r).ctl = s.ctl ∧ (s.complete r).log = s.log ∧ (s.complete r).counters = s.counters ∧
    (s.complete r).flags = s.flags ∧ (s.complete r).mask = s.mask ∧ (s.complete r).freeCount = s.freeCount ∧
    (s.complete r).pending = s.pending :=
    ⟨rfl, rfl, rfl, rfl, rfl, rfl, rfl, rfl, rfl, rfl, rfl, rfl, rfl, rfl, rfl, rfl⟩

@[simp] theorem State.completeWith_frame (b : List Byte) :
    (s.completeWith b).us = s.us ∧ (s.completeWith b).remap = s.remap ∧ (s.completeWith b).regions = s.regions ∧
    (s.completeWith b).srq = s.srq ∧ (s.completeWith b).engine = s.engine ∧ (s.completeWith b).watch = s.watch ∧
    (s.completeWith b).patrol = s.patrol ∧ (s.completeWith b).inject = s.inject ∧ (s.completeWith b).media = s.media ∧
    (s.completeWith b).ctl = s.ctl ∧ (s.completeWith b).log = s.log ∧ (s.completeWith b).counters = s.counters ∧
    (s.completeWith b).flags = s.flags ∧ (s.completeWith b).mask = s.mask ∧ (s.completeWith b).freeCount = s.freeCount ∧
    (s.completeWith b).pending = s.pending := by simp [State.completeWith]

@[simp] theorem State.startCommand_frame (c : Byte) :
    (s.startCommand c).us = s.us ∧ (s.startCommand c).remap = s.remap ∧ (s.startCommand c).regions = s.regions ∧
    (s.startCommand c).srq = s.srq ∧ (s.startCommand c).engine = s.engine ∧ (s.startCommand c).watch = s.watch ∧
    (s.startCommand c).patrol = s.patrol ∧ (s.startCommand c).inject = s.inject ∧ (s.startCommand c).media = s.media ∧
    (s.startCommand c).ctl = s.ctl ∧ (s.startCommand c).log = s.log ∧ (s.startCommand c).counters = s.counters ∧
    (s.startCommand c).flags = s.flags ∧ (s.startCommand c).mask = s.mask ∧ (s.startCommand c).freeCount = s.freeCount ∧
    (s.startCommand c).pending = s.pending :=
    ⟨rfl, rfl, rfl, rfl, rfl, rfl, rfl, rfl, rfl, rfl, rfl, rfl, rfl, rfl, rfl, rfl⟩

@[simp] theorem State.ackWrite_frame :
    s.ackWrite.us = s.us ∧ s.ackWrite.remap = s.remap ∧ s.ackWrite.regions = s.regions ∧ s.ackWrite.srq = s.srq ∧
    s.ackWrite.engine = s.engine ∧ s.ackWrite.watch = s.watch ∧ s.ackWrite.patrol = s.patrol ∧
    s.ackWrite.inject = s.inject ∧ s.ackWrite.media = s.media ∧ s.ackWrite.ctl = s.ctl ∧ s.ackWrite.log = s.log ∧
    s.ackWrite.counters = s.counters ∧ s.ackWrite.flags = s.flags ∧ s.ackWrite.mask = s.mask ∧
    s.ackWrite.freeCount = s.freeCount ∧ s.ackWrite.pending = s.pending :=
    ⟨rfl, rfl, rfl, rfl, rfl, rfl, rfl, rfl, rfl, rfl, rfl, rfl, rfl, rfl, rfl, rfl⟩

@[simp] theorem State.busy_frame (c : Byte) (p : Params) :
    (s.busy c p).us = s.us ∧ (s.busy c p).remap = s.remap ∧ (s.busy c p).regions = s.regions ∧ (s.busy c p).srq = s.srq ∧
    (s.busy c p).engine = s.engine ∧ (s.busy c p).watch = s.watch ∧ (s.busy c p).patrol = s.patrol ∧
    (s.busy c p).inject = s.inject ∧ (s.busy c p).media = s.media ∧ (s.busy c p).ctl = s.ctl ∧ (s.busy c p).log = s.log ∧
    (s.busy c p).counters = s.counters ∧ (s.busy c p).flags = s.flags ∧ (s.busy c p).mask = s.mask ∧
    (s.busy c p).freeCount = s.freeCount ∧ (s.busy c p).pending = s.pending :=
    ⟨rfl, rfl, rfl, rfl, rfl, rfl, rfl, rfl, rfl, rfl, rfl, rfl, rfl, rfl, rfl, rfl⟩

@[simp] theorem State.finished_frame (c : Byte) (r : ResultCode) :
    (s.finished c r).us = s.us ∧ (s.finished c r).remap = s.remap ∧ (s.finished c r).regions = s.regions ∧
    (s.finished c r).srq = s.srq ∧ (s.finished c r).engine = s.engine ∧ (s.finished c r).watch = s.watch ∧
    (s.finished c r).patrol = s.patrol ∧ (s.finished c r).inject = s.inject ∧ (s.finished c r).media = s.media ∧
    (s.finished c r).ctl = s.ctl ∧ (s.finished c r).log = s.log ∧ (s.finished c r).counters = s.counters ∧
    (s.finished c r).flags = s.flags ∧ (s.finished c r).mask = s.mask ∧ (s.finished c r).freeCount = s.freeCount ∧
    (s.finished c r).pending = s.pending :=
    ⟨rfl, rfl, rfl, rfl, rfl, rfl, rfl, rfl, rfl, rfl, rfl, rfl, rfl, rfl, rfl, rfl⟩

end Sys2Proof.Machine
end

