-- ==== Sys2Proof/Laws/Frames.lean ====
section
/-! SUPPORT. One lemma per operation: the fields each shared operation leaves as they were, whatever path it takes. -/

namespace Sys2Proof.Machine

variable (s : State)

@[simp] theorem State.offerRecord_frame (o : Offer) :
    (s.offerRecord o).us = s.us ∧ (s.offerRecord o).remap = s.remap ∧ (s.offerRecord o).regions = s.regions ∧
    (s.offerRecord o).srq = s.srq ∧ (s.offerRecord o).engine = s.engine ∧ (s.offerRecord o).watch = s.watch ∧
    (s.offerRecord o).patrol = s.patrol ∧ (s.offerRecord o).inject = s.inject ∧ (s.offerRecord o).media = s.media ∧
    (s.offerRecord o).ctl = s.ctl ∧ (s.offerRecord o).mask = s.mask ∧ (s.offerRecord o).mgmt = s.mgmt ∧
    (s.offerRecord o).freeCount = s.freeCount ∧ (s.offerRecord o).pending = s.pending := by
  unfold State.offerRecord
  split <;> simp

@[simp] theorem State.testLowWater_frame (b : Nat) :
    (s.testLowWater b).us = s.us ∧ (s.testLowWater b).remap = s.remap ∧ (s.testLowWater b).regions = s.regions ∧
    (s.testLowWater b).srq = s.srq ∧ (s.testLowWater b).engine = s.engine ∧ (s.testLowWater b).watch = s.watch ∧
    (s.testLowWater b).patrol = s.patrol ∧ (s.testLowWater b).inject = s.inject ∧ (s.testLowWater b).media = s.media ∧
    (s.testLowWater b).ctl = s.ctl ∧ (s.testLowWater b).log = s.log ∧ (s.testLowWater b).counters = s.counters ∧
    (s.testLowWater b).mask = s.mask ∧ (s.testLowWater b).mgmt = s.mgmt ∧ (s.testLowWater b).freeCount = s.freeCount ∧
    (s.testLowWater b).pending = s.pending := by
  unfold State.testLowWater
  split <;> simp

@[simp] theorem State.createEntry_frame (n : Nat) (e : RemapEntry) :
    (s.createEntry n e).us = s.us ∧ (s.createEntry n e).regions = s.regions ∧ (s.createEntry n e).srq = s.srq ∧
    (s.createEntry n e).engine = s.engine ∧ (s.createEntry n e).watch = s.watch ∧ (s.createEntry n e).patrol = s.patrol ∧
    (s.createEntry n e).inject = s.inject ∧ (s.createEntry n e).media = s.media ∧ (s.createEntry n e).ctl = s.ctl ∧
    (s.createEntry n e).log = s.log ∧ (s.createEntry n e).counters = s.counters ∧ (s.createEntry n e).mask = s.mask ∧
    (s.createEntry n e).mgmt = s.mgmt ∧ (s.createEntry n e).freeCount = s.freeCount ∧
    (s.createEntry n e).pending = s.pending := by
  unfold State.createEntry
  dsimp only
  split <;> simp

@[simp] theorem State.assignSpare_frame (b k : Nat) :
    (s.assignSpare b k).us = s.us ∧ (s.assignSpare b k).regions = s.regions ∧ (s.assignSpare b k).srq = s.srq ∧
    (s.assignSpare b k).engine = s.engine ∧ (s.assignSpare b k).watch = s.watch ∧ (s.assignSpare b k).patrol = s.patrol ∧
    (s.assignSpare b k).inject = s.inject ∧ (s.assignSpare b k).media = s.media ∧ (s.assignSpare b k).ctl = s.ctl ∧
    (s.assignSpare b k).log = s.log ∧ (s.assignSpare b k).counters = s.counters ∧ (s.assignSpare b k).mask = s.mask ∧
    (s.assignSpare b k).mgmt = s.mgmt ∧ (s.assignSpare b k).freeCount = s.freeCount ∧
    (s.assignSpare b k).pending = s.pending := by simp [State.assignSpare]

@[simp] theorem State.markDead_frame (b k : Nat) :
    (s.markDead b k).us = s.us ∧ (s.markDead b k).regions = s.regions ∧ (s.markDead b k).srq = s.srq ∧
    (s.markDead b k).engine = s.engine ∧ (s.markDead b k).watch = s.watch ∧ (s.markDead b k).patrol = s.patrol ∧
    (s.markDead b k).inject = s.inject ∧ (s.markDead b k).media = s.media ∧ (s.markDead b k).ctl = s.ctl ∧
    (s.markDead b k).log = s.log ∧ (s.markDead b k).counters = s.counters ∧ (s.markDead b k).mask = s.mask ∧
    (s.markDead b k).mgmt = s.mgmt ∧ (s.markDead b k).freeCount = s.freeCount ∧ (s.markDead b k).pending = s.pending := by simp [State.markDead]

@[simp] theorem State.issuePhase_frame (i : SlotNo) (w : Work) (l : Option StoredLine) :
    (s.issuePhase i w l).us = s.us ∧ (s.issuePhase i w l).remap = s.remap ∧ (s.issuePhase i w l).regions = s.regions ∧
    (s.issuePhase i w l).srq = s.srq ∧ (s.issuePhase i w l).engine = s.engine ∧ (s.issuePhase i w l).watch = s.watch ∧
    (s.issuePhase i w l).patrol = s.patrol ∧ (s.issuePhase i w l).inject = s.inject ∧ (s.issuePhase i w l).ctl = s.ctl ∧
    (s.issuePhase i w l).log = s.log ∧ (s.issuePhase i w l).counters = s.counters ∧ (s.issuePhase i w l).flags = s.flags ∧
    (s.issuePhase i w l).mask = s.mask ∧ (s.issuePhase i w l).mgmt = s.mgmt ∧ (s.issuePhase i w l).freeCount = s.freeCount ∧
    (s.issuePhase i w l).pending = s.pending := by
  unfold State.issuePhase
  repeat' split
  all_goals simp

@[simp] theorem State.closeIfEmpty_frame :
    s.closeIfEmpty.us = s.us ∧ s.closeIfEmpty.remap = s.remap ∧ s.closeIfEmpty.regions = s.regions ∧
    s.closeIfEmpty.srq = s.srq ∧ s.closeIfEmpty.engine = s.engine ∧ s.closeIfEmpty.watch = s.watch ∧
    s.closeIfEmpty.patrol = s.patrol ∧ s.closeIfEmpty.inject = s.inject ∧ s.closeIfEmpty.media = s.media ∧
    s.closeIfEmpty.log = s.log ∧ s.closeIfEmpty.counters = s.counters ∧ s.closeIfEmpty.mask = s.mask ∧
    s.closeIfEmpty.mgmt = s.mgmt ∧ s.closeIfEmpty.freeCount = s.freeCount ∧ s.closeIfEmpty.pending = s.pending := by
  unfold State.closeIfEmpty
  split <;> simp

@[simp] theorem State.answerFailed_frame :
    s.answerFailed.us = s.us ∧ s.answerFailed.remap = s.remap ∧ s.answerFailed.regions = s.regions ∧
    s.answerFailed.srq = s.srq ∧ s.answerFailed.engine = s.engine ∧ s.answerFailed.watch = s.watch ∧
    s.answerFailed.patrol = s.patrol ∧ s.answerFailed.inject = s.inject ∧ s.answerFailed.media = s.media ∧
    s.answerFailed.log = s.log ∧ s.answerFailed.counters = s.counters ∧ s.answerFailed.flags = s.flags ∧
    s.answerFailed.mask = s.mask ∧ s.answerFailed.mgmt = s.mgmt ∧ s.answerFailed.freeCount = s.freeCount ∧
    s.answerFailed.pending = s.pending := by
  unfold State.answerFailed
  split <;> simp

@[simp] theorem State.retire_frame (tag : Tag) (m : CtlMsg) :
    (s.retire tag m).us = s.us ∧ (s.retire tag m).remap = s.remap ∧ (s.retire tag m).regions = s.regions ∧
    (s.retire tag m).srq = s.srq ∧ (s.retire tag m).engine = s.engine ∧ (s.retire tag m).watch = s.watch ∧
    (s.retire tag m).patrol = s.patrol ∧ (s.retire tag m).inject = s.inject ∧ (s.retire tag m).media = s.media ∧
    (s.retire tag m).log = s.log ∧ (s.retire tag m).counters = s.counters ∧ (s.retire tag m).mask = s.mask ∧
    (s.retire tag m).mgmt = s.mgmt ∧ (s.retire tag m).freeCount = s.freeCount ∧ (s.retire tag m).pending = s.pending := by
  unfold State.retire
  split <;> simp

@[simp] theorem State.answerZeroMerges_frame :
    s.answerZeroMerges.us = s.us ∧ s.answerZeroMerges.remap = s.remap ∧ s.answerZeroMerges.regions = s.regions ∧
    s.answerZeroMerges.srq = s.srq ∧ s.answerZeroMerges.engine = s.engine ∧ s.answerZeroMerges.watch = s.watch ∧
    s.answerZeroMerges.patrol = s.patrol ∧ s.answerZeroMerges.inject = s.inject ∧ s.answerZeroMerges.media = s.media ∧
    s.answerZeroMerges.log = s.log ∧ s.answerZeroMerges.counters = s.counters ∧ s.answerZeroMerges.mask = s.mask ∧
    s.answerZeroMerges.mgmt = s.mgmt ∧ s.answerZeroMerges.freeCount = s.freeCount ∧
    s.answerZeroMerges.pending = s.pending := by
  unfold State.answerZeroMerges
  split <;> simp

@[simp] theorem State.overrun_frame :
    s.overrun.us = s.us ∧ s.overrun.remap = s.remap ∧ s.overrun.regions = s.regions ∧ s.overrun.srq = s.srq ∧
    s.overrun.engine = s.engine ∧ s.overrun.watch = s.watch ∧ s.overrun.patrol = s.patrol ∧ s.overrun.inject = s.inject ∧
    s.overrun.media = s.media ∧ s.overrun.ctl = s.ctl ∧ s.overrun.log = s.log ∧ s.overrun.counters = s.counters ∧
    s.overrun.mask = s.mask ∧ s.overrun.mgmt = s.mgmt ∧ s.overrun.freeCount = s.freeCount ∧ s.overrun.pending = s.pending := by simp [State.overrun]

@[simp] theorem State.sendCredit_frame :
    s.sendCredit.us = s.us ∧ s.sendCredit.remap = s.remap ∧ s.sendCredit.regions = s.regions ∧ s.sendCredit.srq = s.srq ∧
    s.sendCredit.engine = s.engine ∧ s.sendCredit.watch = s.watch ∧ s.sendCredit.patrol = s.patrol ∧
    s.sendCredit.inject = s.inject ∧ s.sendCredit.media = s.media ∧ s.sendCredit.log = s.log ∧
    s.sendCredit.counters = s.counters ∧ s.sendCredit.flags = s.flags ∧ s.sendCredit.mask = s.mask ∧
    s.sendCredit.mgmt = s.mgmt ∧ s.sendCredit.freeCount = s.freeCount ∧ s.sendCredit.pending = s.pending := by
  unfold State.sendCredit
  split <;> simp

@[simp] theorem State.offerRow_frame (k : FaultKind) (o : Origin) (b r : Nat) (ph : Option RecordAddr) (sl : Option Nat)
    (d : Byte) :
    (s.offerRow k o b r ph sl d).us = s.us ∧ (s.offerRow k o b r ph sl d).remap = s.remap ∧
    (s.offerRow k o b r ph sl d).regions = s.regions ∧ (s.offerRow k o b r ph sl d).srq = s.srq ∧
    (s.offerRow k o b r ph sl d).engine = s.engine ∧ (s.offerRow k o b r ph sl d).watch = s.watch ∧
    (s.offerRow k o b r ph sl d).patrol = s.patrol ∧ (s.offerRow k o b r ph sl d).inject = s.inject ∧
    (s.offerRow k o b r ph sl d).media = s.media ∧ (s.offerRow k o b r ph sl d).ctl = s.ctl ∧
    (s.offerRow k o b r ph sl d).mask = s.mask ∧ (s.offerRow k o b r ph sl d).mgmt = s.mgmt ∧
    (s.offerRow k o b r ph sl d).freeCount = s.freeCount ∧ (s.offerRow k o b r ph sl d).pending = s.pending := by simp [State.offerRow]

@[simp] theorem State.refuseRequest_frame (r : SpareRequest) (y : RefusalReason) :
    (s.refuseRequest r y).us = s.us ∧ (s.refuseRequest r y).remap = s.remap ∧ (s.refuseRequest r y).regions = s.regions ∧
    (s.refuseRequest r y).srq = s.srq ∧ (s.refuseRequest r y).engine = s.engine ∧ (s.refuseRequest r y).watch = s.watch ∧
    (s.refuseRequest r y).patrol = s.patrol ∧ (s.refuseRequest r y).inject = s.inject ∧
    (s.refuseRequest r y).media = s.media ∧ (s.refuseRequest r y).ctl = s.ctl ∧ (s.refuseRequest r y).mask = s.mask ∧
    (s.refuseRequest r y).mgmt = s.mgmt ∧ (s.refuseRequest r y).freeCount = s.freeCount ∧
    (s.refuseRequest r y).pending = s.pending := by simp [State.refuseRequest]

@[simp] theorem State.startMigration_frame (r : SpareRequest) (n : Nat) (old : Option RemapEntry) (k : Nat) :
    (s.startMigration r n old k).us = s.us ∧ (s.startMigration r n old k).regions = s.regions ∧
    (s.startMigration r n old k).srq = s.srq ∧ (s.startMigration r n old k).watch = s.watch ∧
    (s.startMigration r n old k).patrol = s.patrol ∧ (s.startMigration r n old k).inject = s.inject ∧
    (s.startMigration r n old k).media = s.media ∧ (s.startMigration r n old k).ctl = s.ctl ∧
    (s.startMigration r n old k).mask = s.mask ∧ (s.startMigration r n old k).mgmt = s.mgmt ∧
    (s.startMigration r n old k).freeCount = s.freeCount ∧ (s.startMigration r n old k).pending = s.pending := by
  cases old <;> simp [State.startMigration]

@[simp] theorem engineTakeFuel_frame (n : Nat) :
    (engineTakeFuel n s).us = s.us ∧ (engineTakeFuel n s).regions = s.regions ∧ (engineTakeFuel n s).watch = s.watch ∧
    (engineTakeFuel n s).patrol = s.patrol ∧ (engineTakeFuel n s).inject = s.inject ∧ (engineTakeFuel n s).media = s.media ∧
    (engineTakeFuel n s).ctl = s.ctl ∧ (engineTakeFuel n s).mask = s.mask ∧ (engineTakeFuel n s).mgmt = s.mgmt ∧
    (engineTakeFuel n s).freeCount = s.freeCount ∧ (engineTakeFuel n s).pending = s.pending := by
  induction n generalizing s with
  | zero => simp [engineTakeFuel]
  | succ n ih =>
    unfold engineTakeFuel
    repeat' split
    all_goals simp [ih]

@[simp] theorem State.engineTake_frame :
    s.engineTake.us = s.us ∧ s.engineTake.regions = s.regions ∧ s.engineTake.watch = s.watch ∧
    s.engineTake.patrol = s.patrol ∧ s.engineTake.inject = s.inject ∧ s.engineTake.media = s.media ∧
    s.engineTake.ctl = s.ctl ∧ s.engineTake.mask = s.mask ∧ s.engineTake.mgmt = s.mgmt ∧
    s.engineTake.freeCount = s.freeCount ∧ s.engineTake.pending = s.pending := by simp [State.engineTake]

@[simp] theorem State.appendRequest_frame (r : SpareRequest) :
    (s.appendRequest r).us = s.us ∧ (s.appendRequest r).regions = s.regions ∧ (s.appendRequest r).watch = s.watch ∧
    (s.appendRequest r).patrol = s.patrol ∧ (s.appendRequest r).inject = s.inject ∧ (s.appendRequest r).media = s.media ∧
    (s.appendRequest r).ctl = s.ctl ∧ (s.appendRequest r).mask = s.mask ∧ (s.appendRequest r).mgmt = s.mgmt ∧
    (s.appendRequest r).freeCount = s.freeCount ∧ (s.appendRequest r).pending = s.pending := by simp [State.appendRequest]

@[simp] theorem State.offerSparing_frame (b r : Nat) (c : SpareCause) :
    (s.offerSparing b r c).us = s.us ∧ (s.offerSparing b r c).regions = s.regions ∧ (s.offerSparing b r c).watch = s.watch ∧
    (s.offerSparing b r c).patrol = s.patrol ∧ (s.offerSparing b r c).inject = s.inject ∧
    (s.offerSparing b r c).media = s.media ∧ (s.offerSparing b r c).ctl = s.ctl ∧ (s.offerSparing b r c).mask = s.mask ∧
    (s.offerSparing b r c).mgmt = s.mgmt ∧ (s.offerSparing b r c).freeCount = s.freeCount ∧
    (s.offerSparing b r c).pending = s.pending := by
  unfold State.offerSparing
  split <;> simp

@[simp] theorem State.orphanCopy_frame :
    s.orphanCopy.us = s.us ∧ s.orphanCopy.remap = s.remap ∧ s.orphanCopy.regions = s.regions ∧ s.orphanCopy.srq = s.srq ∧
    s.orphanCopy.engine = s.engine ∧ s.orphanCopy.watch = s.watch ∧ s.orphanCopy.patrol = s.patrol ∧
    s.orphanCopy.inject = s.inject ∧ s.orphanCopy.ctl = s.ctl ∧ s.orphanCopy.log = s.log ∧
    s.orphanCopy.counters = s.counters ∧ s.orphanCopy.flags = s.flags ∧ s.orphanCopy.mask = s.mask ∧
    s.orphanCopy.mgmt = s.mgmt ∧ s.orphanCopy.freeCount = s.freeCount ∧ s.orphanCopy.pending = s.pending := by
  unfold State.orphanCopy
  repeat' split
  all_goals simp

@[simp] theorem State.commit_frame :
    s.commit.us = s.us ∧ s.commit.regions = s.regions ∧ s.commit.srq = s.srq ∧ s.commit.watch = s.watch ∧
    s.commit.patrol = s.patrol ∧ s.commit.inject = s.inject ∧ s.commit.media = s.media ∧ s.commit.ctl = s.ctl ∧
    s.commit.mask = s.mask ∧ s.commit.mgmt = s.mgmt ∧ s.commit.freeCount = s.freeCount ∧ s.commit.pending = s.pending := by
  unfold State.commit
  split
  · simp
  · next c e _ => cases c.source <;> simp

@[simp] theorem State.revert_frame (c : EngineCtx) (e : RemapEntry) (y : AbortReason) :
    (s.revert c e y).us = s.us ∧ (s.revert c e y).regions = s.regions ∧ (s.revert c e y).srq = s.srq ∧
    (s.revert c e y).engine = s.engine ∧ (s.revert c e y).watch = s.watch ∧ (s.revert c e y).patrol = s.patrol ∧
    (s.revert c e y).inject = s.inject ∧ (s.revert c e y).media = s.media ∧ (s.revert c e y).ctl = s.ctl ∧
    (s.revert c e y).log = s.log ∧ (s.revert c e y).counters = s.counters ∧ (s.revert c e y).flags = s.flags ∧
    (s.revert c e y).mask = s.mask ∧ (s.revert c e y).mgmt = s.mgmt ∧ (s.revert c e y).freeCount = s.freeCount ∧
    (s.revert c e y).pending = s.pending := by
  cases h : c.source <;> simp only [State.revert, h] <;> split <;> simp

@[simp] theorem State.abort_frame (y : AbortReason) :
    (s.abort y).us = s.us ∧ (s.abort y).regions = s.regions ∧ (s.abort y).srq = s.srq ∧ (s.abort y).watch = s.watch ∧
    (s.abort y).patrol = s.patrol ∧ (s.abort y).inject = s.inject ∧ (s.abort y).mask = s.mask ∧ (s.abort y).mgmt = s.mgmt ∧
    (s.abort y).freeCount = s.freeCount ∧ (s.abort y).pending = s.pending := by
  unfold State.abort
  split <;> simp

@[simp] theorem State.restart_frame (c : EngineCtx) (e : RemapEntry) (k : Nat) :
    (s.restart c e k).us = s.us ∧ (s.restart c e k).regions = s.regions ∧ (s.restart c e k).srq = s.srq ∧
    (s.restart c e k).watch = s.watch ∧ (s.restart c e k).patrol = s.patrol ∧ (s.restart c e k).inject = s.inject ∧
    (s.restart c e k).mask = s.mask ∧ (s.restart c e k).mgmt = s.mgmt ∧ (s.restart c e k).freeCount = s.freeCount ∧
    (s.restart c e k).pending = s.pending := by simp [State.restart]

@[simp] theorem State.destinationFailure_frame :
    s.destinationFailure.us = s.us ∧ s.destinationFailure.regions = s.regions ∧ s.destinationFailure.watch = s.watch ∧
    s.destinationFailure.patrol = s.patrol ∧ s.destinationFailure.inject = s.inject ∧ s.destinationFailure.mask = s.mask ∧
    s.destinationFailure.mgmt = s.mgmt ∧ s.destinationFailure.freeCount = s.freeCount ∧
    s.destinationFailure.pending = s.pending := by
  unfold State.destinationFailure
  repeat' split
  all_goals simp

@[simp] theorem State.charge_frame (b r l : Nat) :
    (s.charge b r l).1.us = s.us ∧ (s.charge b r l).1.remap = s.remap ∧ (s.charge b r l).1.regions = s.regions ∧
    (s.charge b r l).1.srq = s.srq ∧ (s.charge b r l).1.engine = s.engine ∧ (s.charge b r l).1.patrol = s.patrol ∧
    (s.charge b r l).1.inject = s.inject ∧ (s.charge b r l).1.media = s.media ∧ (s.charge b r l).1.ctl = s.ctl ∧
    (s.charge b r l).1.log = s.log ∧ (s.charge b r l).1.flags = s.flags ∧ (s.charge b r l).1.mask = s.mask ∧
    (s.charge b r l).1.mgmt = s.mgmt ∧ (s.charge b r l).1.freeCount = s.freeCount ∧
    (s.charge b r l).1.pending = s.pending := by
  unfold State.charge
  simp only []
  repeat' split
  all_goals simp

@[simp] theorem State.offerRead_frame (f : ReadFacts) (k : FaultKind) (d : Byte) :
    (s.offerRead f k d).us = s.us ∧ (s.offerRead f k d).remap = s.remap ∧ (s.offerRead f k d).regions = s.regions ∧
    (s.offerRead f k d).srq = s.srq ∧ (s.offerRead f k d).engine = s.engine ∧ (s.offerRead f k d).watch = s.watch ∧
    (s.offerRead f k d).patrol = s.patrol ∧ (s.offerRead f k d).inject = s.inject ∧ (s.offerRead f k d).media = s.media ∧
    (s.offerRead f k d).ctl = s.ctl ∧ (s.offerRead f k d).mask = s.mask ∧ (s.offerRead f k d).mgmt = s.mgmt ∧
    (s.offerRead f k d).freeCount = s.freeCount ∧ (s.offerRead f k d).pending = s.pending := by simp [State.offerRead]

@[simp] theorem State.dispatchExhaustion_frame (b r : Nat) :
    (s.dispatchExhaustion b r).us = s.us ∧ (s.dispatchExhaustion b r).regions = s.regions ∧
    (s.dispatchExhaustion b r).watch = s.watch ∧ (s.dispatchExhaustion b r).patrol = s.patrol ∧
    (s.dispatchExhaustion b r).inject = s.inject ∧ (s.dispatchExhaustion b r).mask = s.mask ∧
    (s.dispatchExhaustion b r).mgmt = s.mgmt ∧ (s.dispatchExhaustion b r).freeCount = s.freeCount ∧
    (s.dispatchExhaustion b r).pending = s.pending := by
  unfold State.dispatchExhaustion
  repeat' split
  all_goals simp

@[simp] theorem State.failedDestinationRead_frame (f : ReadFacts) :
    (s.failedDestinationRead f).us = s.us ∧ (s.failedDestinationRead f).regions = s.regions ∧
    (s.failedDestinationRead f).watch = s.watch ∧ (s.failedDestinationRead f).patrol = s.patrol ∧
    (s.failedDestinationRead f).inject = s.inject ∧ (s.failedDestinationRead f).mask = s.mask ∧
    (s.failedDestinationRead f).mgmt = s.mgmt ∧ (s.failedDestinationRead f).freeCount = s.freeCount ∧
    (s.failedDestinationRead f).pending = s.pending := by
  unfold State.failedDestinationRead
  dsimp only
  repeat' split
  all_goals simp

@[simp] theorem State.ueOffer_frame (f : ReadFacts) :
    (s.ueOffer f).us = s.us ∧ (s.ueOffer f).regions = s.regions ∧ (s.ueOffer f).watch = s.watch ∧
    (s.ueOffer f).patrol = s.patrol ∧ (s.ueOffer f).inject = s.inject ∧ (s.ueOffer f).mask = s.mask ∧
    (s.ueOffer f).mgmt = s.mgmt ∧ (s.ueOffer f).freeCount = s.freeCount ∧ (s.ueOffer f).pending = s.pending := by
  unfold State.ueOffer
  repeat' split
  all_goals simp

@[simp] theorem State.dispatchCorrected_frame (f : ReadFacts) :
    (s.dispatchCorrected f).us = s.us ∧ (s.dispatchCorrected f).regions = s.regions ∧
    (s.dispatchCorrected f).patrol = s.patrol ∧ (s.dispatchCorrected f).inject = s.inject ∧
    (s.dispatchCorrected f).mask = s.mask ∧ (s.dispatchCorrected f).mgmt = s.mgmt ∧
    (s.dispatchCorrected f).freeCount = s.freeCount ∧ (s.dispatchCorrected f).pending = s.pending := by
  unfold State.dispatchCorrected
  dsimp only
  repeat' split
  all_goals simp

@[simp] theorem State.dispatch_frame (f : ReadFacts) :
    (s.dispatch f).us = s.us ∧ (s.dispatch f).regions = s.regions ∧ (s.dispatch f).patrol = s.patrol ∧
    (s.dispatch f).inject = s.inject ∧ (s.dispatch f).mask = s.mask ∧ (s.dispatch f).mgmt = s.mgmt ∧
    (s.dispatch f).freeCount = s.freeCount ∧ (s.dispatch f).pending = s.pending := by
  unfold State.dispatch
  split <;> simp

@[simp] theorem State.wrapCursor_frame :
    s.wrapCursor.us = s.us ∧ s.wrapCursor.remap = s.remap ∧ s.wrapCursor.regions = s.regions ∧ s.wrapCursor.srq = s.srq ∧
    s.wrapCursor.engine = s.engine ∧ s.wrapCursor.watch = s.watch ∧ s.wrapCursor.inject = s.inject ∧
    s.wrapCursor.media = s.media ∧ s.wrapCursor.ctl = s.ctl ∧ s.wrapCursor.log = s.log ∧ s.wrapCursor.mask = s.mask ∧
    s.wrapCursor.mgmt = s.mgmt ∧ s.wrapCursor.freeCount = s.freeCount ∧ s.wrapCursor.pending = s.pending := by
  unfold State.wrapCursor
  split <;> simp

@[simp] theorem State.advanceCursor_frame :
    s.advanceCursor.us = s.us ∧ s.advanceCursor.remap = s.remap ∧ s.advanceCursor.regions = s.regions ∧
    s.advanceCursor.srq = s.srq ∧ s.advanceCursor.engine = s.engine ∧ s.advanceCursor.watch = s.watch ∧
    s.advanceCursor.inject = s.inject ∧ s.advanceCursor.media = s.media ∧ s.advanceCursor.ctl = s.ctl ∧
    s.advanceCursor.log = s.log ∧ s.advanceCursor.mask = s.mask ∧ s.advanceCursor.mgmt = s.mgmt ∧
    s.advanceCursor.freeCount = s.freeCount ∧ s.advanceCursor.pending = s.pending := by
  unfold State.advanceCursor
  split <;> simp

@[simp] theorem chooseFuel_frame (n : Nat) (w : Bool) :
    (chooseFuel n w s).1.us = s.us ∧ (chooseFuel n w s).1.remap = s.remap ∧ (chooseFuel n w s).1.regions = s.regions ∧
    (chooseFuel n w s).1.srq = s.srq ∧ (chooseFuel n w s).1.engine = s.engine ∧ (chooseFuel n w s).1.watch = s.watch ∧
    (chooseFuel n w s).1.inject = s.inject ∧ (chooseFuel n w s).1.media = s.media ∧ (chooseFuel n w s).1.ctl = s.ctl ∧
    (chooseFuel n w s).1.log = s.log ∧ (chooseFuel n w s).1.mask = s.mask ∧ (chooseFuel n w s).1.mgmt = s.mgmt ∧
    (chooseFuel n w s).1.freeCount = s.freeCount ∧ (chooseFuel n w s).1.pending = s.pending := by
  induction n generalizing s w with
  | zero => simp [chooseFuel]
  | succ n ih =>
    unfold chooseFuel
    simp only []
    repeat' split
    all_goals simp [ih]

@[simp] theorem State.choose_frame :
    s.choose.1.us = s.us ∧ s.choose.1.remap = s.remap ∧ s.choose.1.regions = s.regions ∧ s.choose.1.srq = s.srq ∧
    s.choose.1.engine = s.engine ∧ s.choose.1.watch = s.watch ∧ s.choose.1.inject = s.inject ∧ s.choose.1.media = s.media ∧
    s.choose.1.ctl = s.ctl ∧ s.choose.1.log = s.log ∧ s.choose.1.mask = s.mask ∧ s.choose.1.mgmt = s.mgmt ∧
    s.choose.1.freeCount = s.freeCount ∧ s.choose.1.pending = s.pending := by simp [State.choose]

@[simp] theorem State.raiseSweepReads_frame :
    s.raiseSweepReads.us = s.us ∧ s.raiseSweepReads.remap = s.remap ∧ s.raiseSweepReads.regions = s.regions ∧
    s.raiseSweepReads.srq = s.srq ∧ s.raiseSweepReads.engine = s.engine ∧ s.raiseSweepReads.watch = s.watch ∧
    s.raiseSweepReads.inject = s.inject ∧ s.raiseSweepReads.media = s.media ∧ s.raiseSweepReads.ctl = s.ctl ∧
    s.raiseSweepReads.log = s.log ∧ s.raiseSweepReads.counters = s.counters ∧ s.raiseSweepReads.flags = s.flags ∧
    s.raiseSweepReads.mask = s.mask ∧ s.raiseSweepReads.mgmt = s.mgmt ∧ s.raiseSweepReads.pending = s.pending := by
  unfold State.raiseSweepReads
  split <;> simp

@[simp] theorem State.issuePatrolRead_frame :
    s.issuePatrolRead.us = s.us ∧ s.issuePatrolRead.remap = s.remap ∧ s.issuePatrolRead.regions = s.regions ∧
    s.issuePatrolRead.srq = s.srq ∧ s.issuePatrolRead.engine = s.engine ∧ s.issuePatrolRead.watch = s.watch ∧
    s.issuePatrolRead.inject = s.inject ∧ s.issuePatrolRead.ctl = s.ctl ∧ s.issuePatrolRead.log = s.log ∧
    s.issuePatrolRead.counters = s.counters ∧ s.issuePatrolRead.flags = s.flags ∧ s.issuePatrolRead.mask = s.mask ∧
    s.issuePatrolRead.mgmt = s.mgmt ∧ s.issuePatrolRead.pending = s.pending := by simp [State.issuePatrolRead]

@[simp] theorem State.patrolAttempt_frame :
    s.patrolAttempt.us = s.us ∧ s.patrolAttempt.remap = s.remap ∧ s.patrolAttempt.regions = s.regions ∧
    s.patrolAttempt.srq = s.srq ∧ s.patrolAttempt.engine = s.engine ∧ s.patrolAttempt.watch = s.watch ∧
    s.patrolAttempt.inject = s.inject ∧ s.patrolAttempt.ctl = s.ctl ∧ s.patrolAttempt.log = s.log ∧
    s.patrolAttempt.mask = s.mask ∧ s.patrolAttempt.mgmt = s.mgmt ∧
    s.patrolAttempt.pending = s.pending := by
  unfold State.patrolAttempt
  dsimp only
  repeat' split
  all_goals simp

@[simp] theorem State.endPatrolStep_frame :
    s.endPatrolStep.us = s.us ∧ s.endPatrolStep.remap = s.remap ∧ s.endPatrolStep.regions = s.regions ∧
    s.endPatrolStep.srq = s.srq ∧ s.endPatrolStep.engine = s.engine ∧ s.endPatrolStep.watch = s.watch ∧
    s.endPatrolStep.inject = s.inject ∧ s.endPatrolStep.media = s.media ∧ s.endPatrolStep.ctl = s.ctl ∧
    s.endPatrolStep.log = s.log ∧ s.endPatrolStep.mask = s.mask ∧ s.endPatrolStep.mgmt = s.mgmt ∧
    s.endPatrolStep.freeCount = s.freeCount ∧ s.endPatrolStep.pending = s.pending := by
  unfold State.endPatrolStep
  split <;> simp

@[simp] theorem State.finishPatrolStep_frame :
    s.finishPatrolStep.us = s.us ∧ s.finishPatrolStep.remap = s.remap ∧ s.finishPatrolStep.regions = s.regions ∧
    s.finishPatrolStep.srq = s.srq ∧ s.finishPatrolStep.engine = s.engine ∧ s.finishPatrolStep.watch = s.watch ∧
    s.finishPatrolStep.inject = s.inject ∧ s.finishPatrolStep.ctl = s.ctl ∧ s.finishPatrolStep.log = s.log ∧
    s.finishPatrolStep.mask = s.mask ∧ s.finishPatrolStep.mgmt = s.mgmt ∧
    s.finishPatrolStep.pending = s.pending := by simp [State.finishPatrolStep]

end Sys2Proof.Machine
end

