-- ==== Sys2Proof/Laws/MediaFrames.lean ====
section
/-! SUPPORT. One lemma per operation: the fields each operation of the media port, the controller port and the timers leaves as they were. -/

namespace Sys2Proof.Machine

variable (s : State)

@[simp] theorem State.finishDrain_frame :
    s.finishDrain.us = s.us ∧ s.finishDrain.remap = s.remap ∧ s.finishDrain.regions = s.regions ∧
    s.finishDrain.srq = s.srq ∧ s.finishDrain.engine = s.engine ∧ s.finishDrain.watch = s.watch ∧
    s.finishDrain.patrol = s.patrol ∧ s.finishDrain.inject = s.inject ∧ s.finishDrain.ctl = s.ctl ∧
    s.finishDrain.log = s.log ∧ s.finishDrain.counters = s.counters ∧ s.finishDrain.flags = s.flags ∧
    s.finishDrain.mask = s.mask ∧ s.finishDrain.freeCount = s.freeCount ∧ s.finishDrain.pending = s.pending := by simp [State.finishDrain]

@[simp] theorem State.lateCompletion_frame (i : SlotNo) (ep : Epoch) (l : Bool) :
    (s.lateCompletion i ep l).us = s.us ∧ (s.lateCompletion i ep l).remap = s.remap ∧
    (s.lateCompletion i ep l).regions = s.regions ∧ (s.lateCompletion i ep l).srq = s.srq ∧
    (s.lateCompletion i ep l).engine = s.engine ∧ (s.lateCompletion i ep l).watch = s.watch ∧
    (s.lateCompletion i ep l).patrol = s.patrol ∧ (s.lateCompletion i ep l).inject = s.inject ∧
    (s.lateCompletion i ep l).ctl = s.ctl ∧ (s.lateCompletion i ep l).log = s.log ∧
    (s.lateCompletion i ep l).flags = s.flags ∧ (s.lateCompletion i ep l).mask = s.mask ∧
    (s.lateCompletion i ep l).freeCount = s.freeCount ∧ (s.lateCompletion i ep l).pending = s.pending := by
  unfold State.lateCompletion
  dsimp only
  repeat' split
  all_goals simp

@[simp] theorem State.endWithAnswer_frame (i : SlotNo) (t : Tag) (m : CtlMsg) :
    (s.endWithAnswer i t m).us = s.us ∧ (s.endWithAnswer i t m).remap = s.remap ∧
    (s.endWithAnswer i t m).regions = s.regions ∧ (s.endWithAnswer i t m).srq = s.srq ∧
    (s.endWithAnswer i t m).engine = s.engine ∧ (s.endWithAnswer i t m).watch = s.watch ∧
    (s.endWithAnswer i t m).patrol = s.patrol ∧ (s.endWithAnswer i t m).inject = s.inject ∧
    (s.endWithAnswer i t m).log = s.log ∧ (s.endWithAnswer i t m).counters = s.counters ∧
    (s.endWithAnswer i t m).mask = s.mask ∧ (s.endWithAnswer i t m).mgmt = s.mgmt ∧
    (s.endWithAnswer i t m).freeCount = s.freeCount ∧ (s.endWithAnswer i t m).pending = s.pending := by simp [State.endWithAnswer]

@[simp] theorem State.issueWrite_frame (i : SlotNo) (w : Work) (d : LineData) :
    (s.issueWrite i w d).us = s.us ∧ (s.issueWrite i w d).remap = s.remap ∧ (s.issueWrite i w d).regions = s.regions ∧
    (s.issueWrite i w d).srq = s.srq ∧ (s.issueWrite i w d).engine = s.engine ∧ (s.issueWrite i w d).watch = s.watch ∧
    (s.issueWrite i w d).patrol = s.patrol ∧ (s.issueWrite i w d).inject = s.inject ∧ (s.issueWrite i w d).ctl = s.ctl ∧
    (s.issueWrite i w d).log = s.log ∧ (s.issueWrite i w d).counters = s.counters ∧ (s.issueWrite i w d).flags = s.flags ∧
    (s.issueWrite i w d).mask = s.mask ∧ (s.issueWrite i w d).mgmt = s.mgmt ∧ (s.issueWrite i w d).freeCount = s.freeCount ∧
    (s.issueWrite i w d).pending = s.pending := by simp [State.issueWrite]

@[simp] theorem State.ownUpstreamRead_frame (i : SlotNo) (w : Work) (e : IrqEntry) (a b : ReadOutcome) (d : LineData) :
    (s.ownUpstreamRead i w e a b d).us = s.us ∧ (s.ownUpstreamRead i w e a b d).remap = s.remap ∧
    (s.ownUpstreamRead i w e a b d).regions = s.regions ∧ (s.ownUpstreamRead i w e a b d).srq = s.srq ∧
    (s.ownUpstreamRead i w e a b d).engine = s.engine ∧ (s.ownUpstreamRead i w e a b d).watch = s.watch ∧
    (s.ownUpstreamRead i w e a b d).patrol = s.patrol ∧ (s.ownUpstreamRead i w e a b d).inject = s.inject ∧
    (s.ownUpstreamRead i w e a b d).log = s.log ∧ (s.ownUpstreamRead i w e a b d).counters = s.counters ∧
    (s.ownUpstreamRead i w e a b d).mask = s.mask ∧ (s.ownUpstreamRead i w e a b d).mgmt = s.mgmt ∧
    (s.ownUpstreamRead i w e a b d).freeCount = s.freeCount ∧ (s.ownUpstreamRead i w e a b d).pending = s.pending := by
  unfold State.ownUpstreamRead
  repeat' split
  all_goals simp

@[simp] theorem State.upstreamRead_frame (i : SlotNo) (w : Work) (t : Tag) (at_ : Bool) (o : Origin)
    (a b : ReadOutcome) (d : LineData) :
    (s.upstreamRead i w t at_ o a b d).us = s.us ∧ (s.upstreamRead i w t at_ o a b d).regions = s.regions ∧
    (s.upstreamRead i w t at_ o a b d).patrol = s.patrol ∧ (s.upstreamRead i w t at_ o a b d).inject = s.inject ∧
    (s.upstreamRead i w t at_ o a b d).mask = s.mask ∧ (s.upstreamRead i w t at_ o a b d).mgmt = s.mgmt ∧
    (s.upstreamRead i w t at_ o a b d).freeCount = s.freeCount ∧ (s.upstreamRead i w t at_ o a b d).pending = s.pending := by
  unfold State.upstreamRead
  dsimp only
  split <;> simp

@[simp] theorem State.copyRead_frame (w : Work) (a b : ReadOutcome) (d : LineData) :
    (s.copyRead w a b d).us = s.us ∧ (s.copyRead w a b d).regions = s.regions ∧ (s.copyRead w a b d).patrol = s.patrol ∧
    (s.copyRead w a b d).inject = s.inject ∧ (s.copyRead w a b d).mask = s.mask ∧ (s.copyRead w a b d).mgmt = s.mgmt ∧
    (s.copyRead w a b d).freeCount = s.freeCount ∧ (s.copyRead w a b d).pending = s.pending := by
  unfold State.copyRead
  dsimp only
  repeat' split
  all_goals simp

@[simp] theorem State.ownPatrolRead_frame (w : Work) (a : ReadOutcome) (d : LineData) :
    (s.ownPatrolRead w a d).us = s.us ∧ (s.ownPatrolRead w a d).remap = s.remap ∧
    (s.ownPatrolRead w a d).regions = s.regions ∧ (s.ownPatrolRead w a d).srq = s.srq ∧
    (s.ownPatrolRead w a d).engine = s.engine ∧ (s.ownPatrolRead w a d).watch = s.watch ∧
    (s.ownPatrolRead w a d).inject = s.inject ∧ (s.ownPatrolRead w a d).ctl = s.ctl ∧ (s.ownPatrolRead w a d).log = s.log ∧
    (s.ownPatrolRead w a d).mask = s.mask ∧ (s.ownPatrolRead w a d).mgmt = s.mgmt ∧ (s.ownPatrolRead w a d).pending = s.pending := by
  unfold State.ownPatrolRead
  repeat' split
  all_goals simp

@[simp] theorem State.patrolRead_frame (w : Work) (a b : ReadOutcome) (d : LineData) :
    (s.patrolRead w a b d).us = s.us ∧ (s.patrolRead w a b d).regions = s.regions ∧
    (s.patrolRead w a b d).inject = s.inject ∧ (s.patrolRead w a b d).mask = s.mask ∧ (s.patrolRead w a b d).mgmt = s.mgmt ∧ (s.patrolRead w a b d).pending = s.pending := by
  unfold State.patrolRead
  dsimp only
  split <;> simp

@[simp] theorem State.acceptRead_frame (i : SlotNo) (w : Work) (l : StoredLine) :
    (s.acceptRead i w l).us = s.us ∧ (s.acceptRead i w l).regions = s.regions ∧ (s.acceptRead i w l).mask = s.mask ∧
    (s.acceptRead i w l).mgmt = s.mgmt ∧ (s.acceptRead i w l).pending = s.pending := by
  unfold State.acceptRead
  repeat' split
  all_goals simp

@[simp] theorem State.copyWritten_frame :
    s.copyWritten.us = s.us ∧ s.copyWritten.regions = s.regions ∧ s.copyWritten.watch = s.watch ∧
    s.copyWritten.patrol = s.patrol ∧ s.copyWritten.inject = s.inject ∧ s.copyWritten.mask = s.mask ∧
    s.copyWritten.mgmt = s.mgmt ∧ s.copyWritten.freeCount = s.freeCount ∧ s.copyWritten.pending = s.pending := by
  unfold State.copyWritten
  dsimp only
  repeat' split
  all_goals simp

@[simp] theorem State.patrolWritten_frame :
    s.patrolWritten.us = s.us ∧ s.patrolWritten.remap = s.remap ∧ s.patrolWritten.regions = s.regions ∧
    s.patrolWritten.srq = s.srq ∧ s.patrolWritten.engine = s.engine ∧ s.patrolWritten.watch = s.watch ∧
    s.patrolWritten.inject = s.inject ∧ s.patrolWritten.ctl = s.ctl ∧ s.patrolWritten.log = s.log ∧
    s.patrolWritten.mask = s.mask ∧ s.patrolWritten.mgmt = s.mgmt ∧
    s.patrolWritten.pending = s.pending := by
  unfold State.patrolWritten
  split <;> simp

@[simp] theorem State.writeEnded_frame (i : SlotNo) (w : Work) :
    (s.writeEnded i w).us = s.us ∧ (s.writeEnded i w).regions = s.regions ∧ (s.writeEnded i w).watch = s.watch ∧
    (s.writeEnded i w).inject = s.inject ∧ (s.writeEnded i w).mask = s.mask ∧ (s.writeEnded i w).mgmt = s.mgmt ∧ (s.writeEnded i w).pending = s.pending := by
  unfold State.writeEnded
  repeat' split
  all_goals simp

@[simp] theorem State.acceptWrite_frame (i : SlotNo) (w : Work) (l : Bool) :
    (s.acceptWrite i w l).us = s.us ∧ (s.acceptWrite i w l).regions = s.regions ∧ (s.acceptWrite i w l).watch = s.watch ∧
    (s.acceptWrite i w l).inject = s.inject ∧ (s.acceptWrite i w l).mask = s.mask ∧ (s.acceptWrite i w l).mgmt = s.mgmt ∧ (s.acceptWrite i w l).pending = s.pending := by
  unfold State.acceptWrite
  dsimp only
  repeat' split
  all_goals simp

@[simp] theorem State.offerTimeout_frame (i : SlotNo) (w : Work) :
    (s.offerTimeout i w).us = s.us ∧ (s.offerTimeout i w).remap = s.remap ∧ (s.offerTimeout i w).regions = s.regions ∧
    (s.offerTimeout i w).srq = s.srq ∧ (s.offerTimeout i w).engine = s.engine ∧ (s.offerTimeout i w).watch = s.watch ∧
    (s.offerTimeout i w).patrol = s.patrol ∧ (s.offerTimeout i w).inject = s.inject ∧ (s.offerTimeout i w).media = s.media ∧
    (s.offerTimeout i w).ctl = s.ctl ∧ (s.offerTimeout i w).mask = s.mask ∧ (s.offerTimeout i w).mgmt = s.mgmt ∧
    (s.offerTimeout i w).freeCount = s.freeCount ∧ (s.offerTimeout i w).pending = s.pending := by simp [State.offerTimeout]

@[simp] theorem State.tellTimeout_frame (w : Work) :
    (s.tellTimeout w).us = s.us ∧ (s.tellTimeout w).regions = s.regions ∧ (s.tellTimeout w).srq = s.srq ∧
    (s.tellTimeout w).watch = s.watch ∧ (s.tellTimeout w).inject = s.inject ∧ (s.tellTimeout w).mask = s.mask ∧
    (s.tellTimeout w).mgmt = s.mgmt ∧ (s.tellTimeout w).freeCount = s.freeCount ∧ (s.tellTimeout w).pending = s.pending := by
  unfold State.tellTimeout
  repeat' split
  all_goals simp

@[simp] theorem State.enterFailed_frame (i : SlotNo) :
    (s.enterFailed i).us = s.us ∧ (s.enterFailed i).regions = s.regions ∧ (s.enterFailed i).srq = s.srq ∧
    (s.enterFailed i).watch = s.watch ∧ (s.enterFailed i).inject = s.inject ∧ (s.enterFailed i).mask = s.mask ∧
    (s.enterFailed i).mgmt = s.mgmt ∧ (s.enterFailed i).freeCount = s.freeCount ∧ (s.enterFailed i).pending = s.pending := by
  unfold State.enterFailed
  dsimp only
  split <;> simp

@[simp] theorem State.afterTimeout_frame (w : Work) :
    (s.afterTimeout w).us = s.us ∧ (s.afterTimeout w).regions = s.regions ∧ (s.afterTimeout w).watch = s.watch ∧
    (s.afterTimeout w).inject = s.inject ∧ (s.afterTimeout w).ctl = s.ctl ∧ (s.afterTimeout w).mask = s.mask ∧
    (s.afterTimeout w).mgmt = s.mgmt ∧
    (s.afterTimeout w).pending = s.pending := by
  unfold State.afterTimeout
  repeat' split
  all_goals simp

@[simp] theorem State.timeout_frame (i : SlotNo) (w : Work) :
    (s.timeout i w).regions = s.regions ∧ (s.timeout i w).watch = s.watch ∧ (s.timeout i w).inject = s.inject ∧
    (s.timeout i w).mask = s.mask ∧ (s.timeout i w).mgmt = s.mgmt ∧
    (s.timeout i w).pending = s.pending := by
  unfold State.timeout
  dsimp only
  split <;> simp

@[simp] theorem State.refuseArrival_frame (t : Tag) (w : Bool) (c : FailCause) :
    (s.refuseArrival t w c).us = s.us ∧ (s.refuseArrival t w c).remap = s.remap ∧
    (s.refuseArrival t w c).regions = s.regions ∧ (s.refuseArrival t w c).srq = s.srq ∧
    (s.refuseArrival t w c).engine = s.engine ∧ (s.refuseArrival t w c).watch = s.watch ∧
    (s.refuseArrival t w c).patrol = s.patrol ∧ (s.refuseArrival t w c).inject = s.inject ∧
    (s.refuseArrival t w c).media = s.media ∧ (s.refuseArrival t w c).log = s.log ∧
    (s.refuseArrival t w c).counters = s.counters ∧ (s.refuseArrival t w c).flags = s.flags ∧
    (s.refuseArrival t w c).mask = s.mask ∧ (s.refuseArrival t w c).mgmt = s.mgmt ∧
    (s.refuseArrival t w c).freeCount = s.freeCount ∧ (s.refuseArrival t w c).pending = s.pending := by simp [State.refuseArrival]

@[simp] theorem State.offerArrival_frame (k : FaultKind) (o : Origin) (t : Tag) (l : Nat) :
    (s.offerArrival k o t l).us = s.us ∧ (s.offerArrival k o t l).remap = s.remap ∧
    (s.offerArrival k o t l).regions = s.regions ∧ (s.offerArrival k o t l).srq = s.srq ∧
    (s.offerArrival k o t l).engine = s.engine ∧ (s.offerArrival k o t l).watch = s.watch ∧
    (s.offerArrival k o t l).patrol = s.patrol ∧ (s.offerArrival k o t l).inject = s.inject ∧
    (s.offerArrival k o t l).media = s.media ∧ (s.offerArrival k o t l).ctl = s.ctl ∧
    (s.offerArrival k o t l).mask = s.mask ∧ (s.offerArrival k o t l).mgmt = s.mgmt ∧
    (s.offerArrival k o t l).freeCount = s.freeCount ∧ (s.offerArrival k o t l).pending = s.pending := by simp [State.offerArrival]

@[simp] theorem State.markCancel_frame (w : Bool) (l : Nat) :
    (s.markCancel w l).us = s.us ∧ (s.markCancel w l).remap = s.remap ∧ (s.markCancel w l).regions = s.regions ∧
    (s.markCancel w l).srq = s.srq ∧ (s.markCancel w l).engine = s.engine ∧ (s.markCancel w l).watch = s.watch ∧
    (s.markCancel w l).inject = s.inject ∧ (s.markCancel w l).media = s.media ∧ (s.markCancel w l).ctl = s.ctl ∧
    (s.markCancel w l).log = s.log ∧ (s.markCancel w l).counters = s.counters ∧ (s.markCancel w l).flags = s.flags ∧
    (s.markCancel w l).mask = s.mask ∧ (s.markCancel w l).mgmt = s.mgmt ∧ (s.markCancel w l).freeCount = s.freeCount ∧
    (s.markCancel w l).pending = s.pending := by
  unfold State.markCancel
  split <;> simp

@[simp] theorem State.acceptRequest_frame (t : Tag) (k : RequestKind) (l : Nat) :
    (s.acceptRequest t k l).us = s.us ∧ (s.acceptRequest t k l).remap = s.remap ∧
    (s.acceptRequest t k l).regions = s.regions ∧ (s.acceptRequest t k l).srq = s.srq ∧
    (s.acceptRequest t k l).engine = s.engine ∧ (s.acceptRequest t k l).watch = s.watch ∧
    (s.acceptRequest t k l).inject = s.inject ∧ (s.acceptRequest t k l).media = s.media ∧
    (s.acceptRequest t k l).log = s.log ∧ (s.acceptRequest t k l).counters = s.counters ∧
    (s.acceptRequest t k l).mask = s.mask ∧ (s.acceptRequest t k l).mgmt = s.mgmt ∧
    (s.acceptRequest t k l).freeCount = s.freeCount ∧ (s.acceptRequest t k l).pending = s.pending := by simp [State.acceptRequest]

@[simp] theorem State.arrive_frame (t : Byte) (l : LineAddr) (k : RequestKind) :
    (s.arrive t l k).us = s.us ∧ (s.arrive t l k).remap = s.remap ∧ (s.arrive t l k).regions = s.regions ∧
    (s.arrive t l k).srq = s.srq ∧ (s.arrive t l k).engine = s.engine ∧ (s.arrive t l k).watch = s.watch ∧
    (s.arrive t l k).inject = s.inject ∧ (s.arrive t l k).media = s.media ∧ (s.arrive t l k).mask = s.mask ∧
    (s.arrive t l k).mgmt = s.mgmt ∧ (s.arrive t l k).freeCount = s.freeCount ∧ (s.arrive t l k).pending = s.pending := by
  unfold State.arrive
  dsimp only
  repeat' split
  all_goals simp

@[simp] theorem State.issueFirst_frame (i : SlotNo) (e : IrqEntry) :
    (s.issueFirst i e).us = s.us ∧ (s.issueFirst i e).remap = s.remap ∧ (s.issueFirst i e).regions = s.regions ∧
    (s.issueFirst i e).srq = s.srq ∧ (s.issueFirst i e).engine = s.engine ∧ (s.issueFirst i e).watch = s.watch ∧
    (s.issueFirst i e).patrol = s.patrol ∧ (s.issueFirst i e).inject = s.inject ∧ (s.issueFirst i e).ctl = s.ctl ∧
    (s.issueFirst i e).log = s.log ∧ (s.issueFirst i e).counters = s.counters ∧ (s.issueFirst i e).flags = s.flags ∧
    (s.issueFirst i e).mask = s.mask ∧ (s.issueFirst i e).mgmt = s.mgmt ∧ (s.issueFirst i e).freeCount = s.freeCount ∧
    (s.issueFirst i e).pending = s.pending := by
  unfold State.issueFirst
  repeat' split
  all_goals simp

@[simp] theorem State.grant_frame (i : SlotNo) (e : IrqEntry) :
    (s.grant i e).us = s.us ∧ (s.grant i e).remap = s.remap ∧ (s.grant i e).regions = s.regions ∧
    (s.grant i e).srq = s.srq ∧ (s.grant i e).engine = s.engine ∧ (s.grant i e).watch = s.watch ∧
    (s.grant i e).patrol = s.patrol ∧ (s.grant i e).inject = s.inject ∧ (s.grant i e).log = s.log ∧
    (s.grant i e).counters = s.counters ∧ (s.grant i e).flags = s.flags ∧ (s.grant i e).mask = s.mask ∧
    (s.grant i e).mgmt = s.mgmt ∧ (s.grant i e).freeCount = s.freeCount ∧ (s.grant i e).pending = s.pending := by simp [State.grant]

@[simp] theorem State.issueCopyRead_frame (c : EngineCtx) (e : RemapEntry) :
    (s.issueCopyRead c e).us = s.us ∧ (s.issueCopyRead c e).remap = s.remap ∧ (s.issueCopyRead c e).regions = s.regions ∧
    (s.issueCopyRead c e).srq = s.srq ∧ (s.issueCopyRead c e).watch = s.watch ∧ (s.issueCopyRead c e).patrol = s.patrol ∧
    (s.issueCopyRead c e).inject = s.inject ∧ (s.issueCopyRead c e).log = s.log ∧
    (s.issueCopyRead c e).counters = s.counters ∧ (s.issueCopyRead c e).flags = s.flags ∧
    (s.issueCopyRead c e).mask = s.mask ∧ (s.issueCopyRead c e).mgmt = s.mgmt ∧
    (s.issueCopyRead c e).freeCount = s.freeCount ∧ (s.issueCopyRead c e).pending = s.pending := by simp [State.issueCopyRead]

end Sys2Proof.Machine
end

