-- ==== Sys2Proof/Laws/CommandFrames.lean ====
section
/-! SUPPORT. One lemma per operation: the fields each management command leaves as they were. -/

namespace Sys2Proof.Machine

variable (s : State)

@[simp] theorem State.writeCommand_frame (c : Byte) :
    (s.writeCommand c).us = s.us ∧ (s.writeCommand c).remap = s.remap ∧ (s.writeCommand c).regions = s.regions ∧
    (s.writeCommand c).srq = s.srq ∧ (s.writeCommand c).engine = s.engine ∧ (s.writeCommand c).watch = s.watch ∧
    (s.writeCommand c).patrol = s.patrol ∧ (s.writeCommand c).inject = s.inject ∧ (s.writeCommand c).media = s.media ∧
    (s.writeCommand c).ctl = s.ctl ∧ (s.writeCommand c).log = s.log ∧ (s.writeCommand c).counters = s.counters ∧
    (s.writeCommand c).mask = s.mask ∧ (s.writeCommand c).freeCount = s.freeCount ∧
    (s.writeCommand c).pending = s.pending := by
  unfold State.writeCommand
  repeat' split
  all_goals simp

@[simp] theorem State.writeRegister_frame (a : Nat) (v : Byte) :
    (s.writeRegister a v).us = s.us ∧ (s.writeRegister a v).remap = s.remap ∧ (s.writeRegister a v).regions = s.regions ∧
    (s.writeRegister a v).srq = s.srq ∧ (s.writeRegister a v).engine = s.engine ∧ (s.writeRegister a v).watch = s.watch ∧
    (s.writeRegister a v).patrol = s.patrol ∧ (s.writeRegister a v).inject = s.inject ∧
    (s.writeRegister a v).media = s.media ∧ (s.writeRegister a v).ctl = s.ctl ∧ (s.writeRegister a v).log = s.log ∧
    (s.writeRegister a v).counters = s.counters ∧ (s.writeRegister a v).mask = s.mask ∧
    (s.writeRegister a v).freeCount = s.freeCount ∧ (s.writeRegister a v).pending = s.pending := by
  unfold State.writeRegister
  repeat' split
  all_goals simp

@[simp] theorem State.openGate_frame :
    s.openGate.us = s.us ∧ s.openGate.remap = s.remap ∧ s.openGate.regions = s.regions ∧ s.openGate.srq = s.srq ∧
    s.openGate.engine = s.engine ∧ s.openGate.watch = s.watch ∧ s.openGate.patrol = s.patrol ∧
    s.openGate.inject = s.inject ∧ s.openGate.media = s.media ∧ s.openGate.log = s.log ∧ s.openGate.counters = s.counters ∧
    s.openGate.flags = s.flags ∧ s.openGate.mask = s.mask ∧ s.openGate.freeCount = s.freeCount ∧
    s.openGate.pending = s.pending := by
  unfold State.openGate
  split <;> simp

@[simp] theorem State.closeGate_frame :
    s.closeGate.us = s.us ∧ s.closeGate.remap = s.remap ∧ s.closeGate.regions = s.regions ∧ s.closeGate.srq = s.srq ∧
    s.closeGate.engine = s.engine ∧ s.closeGate.watch = s.watch ∧ s.closeGate.patrol = s.patrol ∧
    s.closeGate.inject = s.inject ∧ s.closeGate.media = s.media ∧ s.closeGate.log = s.log ∧
    s.closeGate.counters = s.counters ∧ s.closeGate.mask = s.mask ∧ s.closeGate.freeCount = s.freeCount ∧
    s.closeGate.pending = s.pending := by
  unfold State.closeGate
  split <;> simp

@[simp] theorem State.warmController_frame :
    s.warmController.us = s.us ∧ s.warmController.remap = s.remap ∧ s.warmController.regions = s.regions ∧
    s.warmController.srq = s.srq ∧ s.warmController.engine = s.engine ∧ s.warmController.watch = s.watch ∧
    s.warmController.patrol = s.patrol ∧ s.warmController.inject = s.inject ∧ s.warmController.media = s.media ∧
    s.warmController.log = s.log ∧ s.warmController.counters = s.counters ∧ s.warmController.flags = s.flags ∧
    s.warmController.mask = s.mask ∧ s.warmController.mgmt = s.mgmt ∧ s.warmController.freeCount = s.freeCount ∧
    s.warmController.pending = s.pending := by simp [State.warmController]

@[simp] theorem State.warmEngine_frame :
    s.warmEngine.us = s.us ∧ s.warmEngine.regions = s.regions ∧ s.warmEngine.watch = s.watch ∧
    s.warmEngine.patrol = s.patrol ∧ s.warmEngine.inject = s.inject ∧ s.warmEngine.mask = s.mask ∧
    s.warmEngine.mgmt = s.mgmt ∧ s.warmEngine.freeCount = s.freeCount ∧ s.warmEngine.pending = s.pending := by
  unfold State.warmEngine
  split <;> simp

@[simp] theorem State.warmComplete_frame :
    s.warmComplete.us = s.us ∧ s.warmComplete.remap = s.remap ∧ s.warmComplete.regions = s.regions ∧
    s.warmComplete.srq = s.srq ∧ s.warmComplete.engine = s.engine ∧ s.warmComplete.watch = s.watch ∧
    s.warmComplete.patrol = s.patrol ∧ s.warmComplete.inject = s.inject ∧ s.warmComplete.media = s.media ∧
    s.warmComplete.ctl = s.ctl ∧ s.warmComplete.log = s.log ∧ s.warmComplete.counters = s.counters ∧
    s.warmComplete.flags = s.flags ∧ s.warmComplete.mask = s.mask ∧ s.warmComplete.freeCount = s.freeCount ∧
    s.warmComplete.pending = s.pending := by
  unfold State.warmComplete
  split <;> simp

@[simp] theorem State.warmReset_frame :
    s.warmReset.us = s.us ∧ s.warmReset.regions = s.regions ∧ s.warmReset.watch = s.watch ∧ s.warmReset.mask = s.mask ∧
    s.warmReset.freeCount = s.freeCount ∧ s.warmReset.pending = s.pending := by simp [State.warmReset]

@[simp] theorem State.setReservation_frame (n : Nat) :
    (s.setReservation n).us = s.us ∧ (s.setReservation n).regions = s.regions ∧ (s.setReservation n).engine = s.engine ∧
    (s.setReservation n).watch = s.watch ∧ (s.setReservation n).patrol = s.patrol ∧ (s.setReservation n).inject = s.inject ∧
    (s.setReservation n).media = s.media ∧ (s.setReservation n).ctl = s.ctl ∧ (s.setReservation n).log = s.log ∧
    (s.setReservation n).counters = s.counters ∧ (s.setReservation n).flags = s.flags ∧ (s.setReservation n).mask = s.mask ∧
    (s.setReservation n).freeCount = s.freeCount ∧ (s.setReservation n).pending = s.pending := by
  unfold State.setReservation
  repeat' split
  all_goals simp

@[simp] theorem State.readRemap_frame (n : Nat) :
    (s.readRemap n).us = s.us ∧ (s.readRemap n).remap = s.remap ∧ (s.readRemap n).regions = s.regions ∧
    (s.readRemap n).srq = s.srq ∧ (s.readRemap n).engine = s.engine ∧ (s.readRemap n).watch = s.watch ∧
    (s.readRemap n).patrol = s.patrol ∧ (s.readRemap n).inject = s.inject ∧ (s.readRemap n).media = s.media ∧
    (s.readRemap n).ctl = s.ctl ∧ (s.readRemap n).log = s.log ∧ (s.readRemap n).counters = s.counters ∧
    (s.readRemap n).flags = s.flags ∧ (s.readRemap n).mask = s.mask ∧ (s.readRemap n).freeCount = s.freeCount ∧
    (s.readRemap n).pending = s.pending := by
  unfold State.readRemap
  split <;> simp

@[simp] theorem State.findRemap_frame (b r : Nat) :
    (s.findRemap b r).us = s.us ∧ (s.findRemap b r).remap = s.remap ∧ (s.findRemap b r).regions = s.regions ∧
    (s.findRemap b r).srq = s.srq ∧ (s.findRemap b r).engine = s.engine ∧ (s.findRemap b r).watch = s.watch ∧
    (s.findRemap b r).patrol = s.patrol ∧ (s.findRemap b r).inject = s.inject ∧ (s.findRemap b r).media = s.media ∧
    (s.findRemap b r).ctl = s.ctl ∧ (s.findRemap b r).log = s.log ∧ (s.findRemap b r).counters = s.counters ∧
    (s.findRemap b r).flags = s.flags ∧ (s.findRemap b r).mask = s.mask ∧ (s.findRemap b r).freeCount = s.freeCount ∧
    (s.findRemap b r).pending = s.pending := by
  unfold State.findRemap
  repeat' split
  all_goals simp

@[simp] theorem State.install_frame (n b r k : Nat) :
    (s.install n b r k).us = s.us ∧ (s.install n b r k).regions = s.regions ∧ (s.install n b r k).srq = s.srq ∧
    (s.install n b r k).engine = s.engine ∧ (s.install n b r k).watch = s.watch ∧ (s.install n b r k).patrol = s.patrol ∧
    (s.install n b r k).inject = s.inject ∧ (s.install n b r k).media = s.media ∧ (s.install n b r k).ctl = s.ctl ∧
    (s.install n b r k).log = s.log ∧ (s.install n b r k).counters = s.counters ∧ (s.install n b r k).mask = s.mask ∧
    (s.install n b r k).mgmt = s.mgmt ∧ (s.install n b r k).freeCount = s.freeCount ∧
    (s.install n b r k).pending = s.pending := by simp [State.install]

@[simp] theorem State.installEntry_frame (b r k : Nat) :
    (s.installEntry b r k).us = s.us ∧ (s.installEntry b r k).regions = s.regions ∧ (s.installEntry b r k).srq = s.srq ∧
    (s.installEntry b r k).engine = s.engine ∧ (s.installEntry b r k).watch = s.watch ∧
    (s.installEntry b r k).patrol = s.patrol ∧ (s.installEntry b r k).inject = s.inject ∧
    (s.installEntry b r k).media = s.media ∧ (s.installEntry b r k).ctl = s.ctl ∧ (s.installEntry b r k).log = s.log ∧
    (s.installEntry b r k).counters = s.counters ∧ (s.installEntry b r k).mask = s.mask ∧
    (s.installEntry b r k).freeCount = s.freeCount ∧ (s.installEntry b r k).pending = s.pending := by
  unfold State.installEntry
  repeat' split
  all_goals simp

@[simp] theorem State.drop_frame (n : Nat) (e : RemapEntry) (d : Bool) :
    (s.drop n e d).us = s.us ∧ (s.drop n e d).regions = s.regions ∧ (s.drop n e d).srq = s.srq ∧
    (s.drop n e d).engine = s.engine ∧ (s.drop n e d).watch = s.watch ∧ (s.drop n e d).patrol = s.patrol ∧
    (s.drop n e d).inject = s.inject ∧ (s.drop n e d).media = s.media ∧ (s.drop n e d).ctl = s.ctl ∧
    (s.drop n e d).log = s.log ∧ (s.drop n e d).counters = s.counters ∧ (s.drop n e d).flags = s.flags ∧
    (s.drop n e d).mask = s.mask ∧ (s.drop n e d).mgmt = s.mgmt ∧ (s.drop n e d).freeCount = s.freeCount ∧
    (s.drop n e d).pending = s.pending := by
  unfold State.drop
  split <;> simp

@[simp] theorem State.dropEntry_frame (n f : Nat) :
    (s.dropEntry n f).us = s.us ∧ (s.dropEntry n f).regions = s.regions ∧ (s.dropEntry n f).srq = s.srq ∧
    (s.dropEntry n f).engine = s.engine ∧ (s.dropEntry n f).watch = s.watch ∧ (s.dropEntry n f).patrol = s.patrol ∧
    (s.dropEntry n f).inject = s.inject ∧ (s.dropEntry n f).media = s.media ∧ (s.dropEntry n f).ctl = s.ctl ∧
    (s.dropEntry n f).log = s.log ∧ (s.dropEntry n f).counters = s.counters ∧ (s.dropEntry n f).flags = s.flags ∧
    (s.dropEntry n f).mask = s.mask ∧ (s.dropEntry n f).freeCount = s.freeCount ∧ (s.dropEntry n f).pending = s.pending := by
  unfold State.dropEntry
  repeat' split
  all_goals simp

@[simp] theorem State.readPool_frame (b : Nat) :
    (s.readPool b).us = s.us ∧ (s.readPool b).remap = s.remap ∧ (s.readPool b).regions = s.regions ∧
    (s.readPool b).srq = s.srq ∧ (s.readPool b).engine = s.engine ∧ (s.readPool b).watch = s.watch ∧
    (s.readPool b).patrol = s.patrol ∧ (s.readPool b).inject = s.inject ∧ (s.readPool b).media = s.media ∧
    (s.readPool b).ctl = s.ctl ∧ (s.readPool b).log = s.log ∧ (s.readPool b).counters = s.counters ∧
    (s.readPool b).flags = s.flags ∧ (s.readPool b).mask = s.mask ∧ (s.readPool b).freeCount = s.freeCount ∧
    (s.readPool b).pending = s.pending := by
  unfold State.readPool
  split <;> simp

@[simp] theorem State.markSpareDead_frame (b k : Nat) :
    (s.markSpareDead b k).us = s.us ∧ (s.markSpareDead b k).regions = s.regions ∧ (s.markSpareDead b k).srq = s.srq ∧
    (s.markSpareDead b k).engine = s.engine ∧ (s.markSpareDead b k).watch = s.watch ∧
    (s.markSpareDead b k).patrol = s.patrol ∧ (s.markSpareDead b k).inject = s.inject ∧
    (s.markSpareDead b k).media = s.media ∧ (s.markSpareDead b k).ctl = s.ctl ∧ (s.markSpareDead b k).log = s.log ∧
    (s.markSpareDead b k).counters = s.counters ∧ (s.markSpareDead b k).mask = s.mask ∧
    (s.markSpareDead b k).freeCount = s.freeCount ∧ (s.markSpareDead b k).pending = s.pending := by
  unfold State.markSpareDead
  repeat' split
  all_goals simp

@[simp] theorem State.setLowWater_frame (m : Nat) :
    (s.setLowWater m).us = s.us ∧ (s.setLowWater m).regions = s.regions ∧ (s.setLowWater m).srq = s.srq ∧
    (s.setLowWater m).engine = s.engine ∧ (s.setLowWater m).watch = s.watch ∧ (s.setLowWater m).patrol = s.patrol ∧
    (s.setLowWater m).inject = s.inject ∧ (s.setLowWater m).media = s.media ∧ (s.setLowWater m).ctl = s.ctl ∧
    (s.setLowWater m).log = s.log ∧ (s.setLowWater m).counters = s.counters ∧ (s.setLowWater m).flags = s.flags ∧
    (s.setLowWater m).mask = s.mask ∧ (s.setLowWater m).freeCount = s.freeCount ∧ (s.setLowWater m).pending = s.pending := by
  unfold State.setLowWater
  split <;> simp

@[simp] theorem State.spareRow_frame (b r : Nat) :
    (s.spareRow b r).us = s.us ∧ (s.spareRow b r).regions = s.regions ∧ (s.spareRow b r).watch = s.watch ∧
    (s.spareRow b r).patrol = s.patrol ∧ (s.spareRow b r).inject = s.inject ∧ (s.spareRow b r).media = s.media ∧
    (s.spareRow b r).ctl = s.ctl ∧ (s.spareRow b r).mask = s.mask ∧ (s.spareRow b r).freeCount = s.freeCount ∧
    (s.spareRow b r).pending = s.pending := by
  unfold State.spareRow
  repeat' split
  all_goals simp

@[simp] theorem State.abortMigration_frame :
    s.abortMigration.us = s.us ∧ s.abortMigration.regions = s.regions ∧ s.abortMigration.watch = s.watch ∧
    s.abortMigration.patrol = s.patrol ∧ s.abortMigration.inject = s.inject ∧ s.abortMigration.mask = s.mask ∧
    s.abortMigration.freeCount = s.freeCount ∧ s.abortMigration.pending = s.pending := by
  unfold State.abortMigration
  split <;> simp

@[simp] theorem State.readWatch_frame (i : Nat) :
    (s.readWatch i).us = s.us ∧ (s.readWatch i).remap = s.remap ∧ (s.readWatch i).regions = s.regions ∧
    (s.readWatch i).srq = s.srq ∧ (s.readWatch i).engine = s.engine ∧ (s.readWatch i).watch = s.watch ∧
    (s.readWatch i).patrol = s.patrol ∧ (s.readWatch i).inject = s.inject ∧ (s.readWatch i).media = s.media ∧
    (s.readWatch i).ctl = s.ctl ∧ (s.readWatch i).log = s.log ∧ (s.readWatch i).counters = s.counters ∧
    (s.readWatch i).flags = s.flags ∧ (s.readWatch i).mask = s.mask ∧ (s.readWatch i).freeCount = s.freeCount ∧
    (s.readWatch i).pending = s.pending := by
  unfold State.readWatch
  repeat' split
  all_goals simp

@[simp] theorem State.setThresholds_frame (a b c d p : Nat) :
    (s.setThresholds a b c d p).us = s.us ∧ (s.setThresholds a b c d p).remap = s.remap ∧
    (s.setThresholds a b c d p).regions = s.regions ∧ (s.setThresholds a b c d p).srq = s.srq ∧
    (s.setThresholds a b c d p).engine = s.engine ∧ (s.setThresholds a b c d p).patrol = s.patrol ∧
    (s.setThresholds a b c d p).inject = s.inject ∧ (s.setThresholds a b c d p).media = s.media ∧
    (s.setThresholds a b c d p).ctl = s.ctl ∧ (s.setThresholds a b c d p).log = s.log ∧
    (s.setThresholds a b c d p).counters = s.counters ∧ (s.setThresholds a b c d p).flags = s.flags ∧
    (s.setThresholds a b c d p).mask = s.mask ∧ (s.setThresholds a b c d p).freeCount = s.freeCount ∧
    (s.setThresholds a b c d p).pending = s.pending := by
  unfold State.setThresholds
  split <;> simp

@[simp] theorem State.setRegion_frame (i l : Nat) (a : Option Policy) :
    (s.setRegion i l a).us = s.us ∧ (s.setRegion i l a).remap = s.remap ∧ (s.setRegion i l a).srq = s.srq ∧
    (s.setRegion i l a).engine = s.engine ∧ (s.setRegion i l a).watch = s.watch ∧ (s.setRegion i l a).patrol = s.patrol ∧
    (s.setRegion i l a).inject = s.inject ∧ (s.setRegion i l a).media = s.media ∧ (s.setRegion i l a).ctl = s.ctl ∧
    (s.setRegion i l a).log = s.log ∧ (s.setRegion i l a).counters = s.counters ∧ (s.setRegion i l a).flags = s.flags ∧
    (s.setRegion i l a).mask = s.mask ∧ (s.setRegion i l a).freeCount = s.freeCount ∧
    (s.setRegion i l a).pending = s.pending := by
  unfold State.setRegion
  repeat' split
  all_goals simp

@[simp] theorem State.readRegion_frame (i : Nat) :
    (s.readRegion i).us = s.us ∧ (s.readRegion i).remap = s.remap ∧ (s.readRegion i).regions = s.regions ∧
    (s.readRegion i).srq = s.srq ∧ (s.readRegion i).engine = s.engine ∧ (s.readRegion i).watch = s.watch ∧
    (s.readRegion i).patrol = s.patrol ∧ (s.readRegion i).inject = s.inject ∧ (s.readRegion i).media = s.media ∧
    (s.readRegion i).ctl = s.ctl ∧ (s.readRegion i).log = s.log ∧ (s.readRegion i).counters = s.counters ∧
    (s.readRegion i).flags = s.flags ∧ (s.readRegion i).mask = s.mask ∧ (s.readRegion i).freeCount = s.freeCount ∧
    (s.readRegion i).pending = s.pending := by
  unfold State.readRegion
  split <;> simp

@[simp] theorem State.startPatrol_frame :
    s.startPatrol.us = s.us ∧ s.startPatrol.remap = s.remap ∧ s.startPatrol.regions = s.regions ∧
    s.startPatrol.srq = s.srq ∧ s.startPatrol.engine = s.engine ∧ s.startPatrol.watch = s.watch ∧
    s.startPatrol.inject = s.inject ∧ s.startPatrol.media = s.media ∧ s.startPatrol.ctl = s.ctl ∧
    s.startPatrol.log = s.log ∧ s.startPatrol.counters = s.counters ∧ s.startPatrol.flags = s.flags ∧
    s.startPatrol.mask = s.mask ∧ s.startPatrol.freeCount = s.freeCount ∧ s.startPatrol.pending = s.pending := by
  unfold State.startPatrol
  repeat' split
  all_goals simp

@[simp] theorem State.stopCommand_frame :
    s.stopCommand.us = s.us ∧ s.stopCommand.remap = s.remap ∧ s.stopCommand.regions = s.regions ∧
    s.stopCommand.srq = s.srq ∧ s.stopCommand.engine = s.engine ∧ s.stopCommand.watch = s.watch ∧
    s.stopCommand.inject = s.inject ∧ s.stopCommand.media = s.media ∧ s.stopCommand.ctl = s.ctl ∧
    s.stopCommand.log = s.log ∧ s.stopCommand.counters = s.counters ∧ s.stopCommand.flags = s.flags ∧
    s.stopCommand.mask = s.mask ∧ s.stopCommand.freeCount = s.freeCount ∧ s.stopCommand.pending = s.pending := by
  unfold State.stopCommand
  split <;> simp

@[simp] theorem State.setInterval_frame (i : Nat) :
    (s.setInterval i).us = s.us ∧ (s.setInterval i).remap = s.remap ∧ (s.setInterval i).regions = s.regions ∧
    (s.setInterval i).srq = s.srq ∧ (s.setInterval i).engine = s.engine ∧ (s.setInterval i).watch = s.watch ∧
    (s.setInterval i).inject = s.inject ∧ (s.setInterval i).media = s.media ∧ (s.setInterval i).ctl = s.ctl ∧
    (s.setInterval i).log = s.log ∧ (s.setInterval i).counters = s.counters ∧ (s.setInterval i).flags = s.flags ∧
    (s.setInterval i).mask = s.mask ∧ (s.setInterval i).freeCount = s.freeCount ∧ (s.setInterval i).pending = s.pending := by
  unfold State.setInterval
  split <;> simp

@[simp] theorem State.setCursor_frame (l : Nat) :
    (s.setCursor l).us = s.us ∧ (s.setCursor l).remap = s.remap ∧ (s.setCursor l).regions = s.regions ∧
    (s.setCursor l).srq = s.srq ∧ (s.setCursor l).engine = s.engine ∧ (s.setCursor l).watch = s.watch ∧
    (s.setCursor l).inject = s.inject ∧ (s.setCursor l).media = s.media ∧ (s.setCursor l).ctl = s.ctl ∧
    (s.setCursor l).log = s.log ∧ (s.setCursor l).counters = s.counters ∧ (s.setCursor l).flags = s.flags ∧
    (s.setCursor l).mask = s.mask ∧ (s.setCursor l).freeCount = s.freeCount ∧ (s.setCursor l).pending = s.pending := by
  unfold State.setCursor
  repeat' split
  all_goals simp

@[simp] theorem State.setInject_frame (i : Nat) (x : Option InjectSlot) :
    (s.setInject i x).us = s.us ∧ (s.setInject i x).remap = s.remap ∧ (s.setInject i x).regions = s.regions ∧
    (s.setInject i x).srq = s.srq ∧ (s.setInject i x).engine = s.engine ∧ (s.setInject i x).watch = s.watch ∧
    (s.setInject i x).patrol = s.patrol ∧ (s.setInject i x).media = s.media ∧ (s.setInject i x).ctl = s.ctl ∧
    (s.setInject i x).log = s.log ∧ (s.setInject i x).counters = s.counters ∧ (s.setInject i x).flags = s.flags ∧
    (s.setInject i x).mask = s.mask ∧ (s.setInject i x).freeCount = s.freeCount ∧ (s.setInject i x).pending = s.pending := by
  unfold State.setInject
  repeat' split
  all_goals simp

@[simp] theorem State.clearInject_frame (i : Nat) :
    (s.clearInject i).us = s.us ∧ (s.clearInject i).remap = s.remap ∧ (s.clearInject i).regions = s.regions ∧
    (s.clearInject i).srq = s.srq ∧ (s.clearInject i).engine = s.engine ∧ (s.clearInject i).watch = s.watch ∧
    (s.clearInject i).patrol = s.patrol ∧ (s.clearInject i).media = s.media ∧ (s.clearInject i).ctl = s.ctl ∧
    (s.clearInject i).log = s.log ∧ (s.clearInject i).counters = s.counters ∧ (s.clearInject i).flags = s.flags ∧
    (s.clearInject i).mask = s.mask ∧ (s.clearInject i).freeCount = s.freeCount ∧ (s.clearInject i).pending = s.pending := by
  unfold State.clearInject
  split <;> simp

@[simp] theorem State.readFault_frame :
    s.readFault.us = s.us ∧ s.readFault.remap = s.remap ∧ s.readFault.regions = s.regions ∧ s.readFault.srq = s.srq ∧
    s.readFault.engine = s.engine ∧ s.readFault.watch = s.watch ∧ s.readFault.patrol = s.patrol ∧
    s.readFault.inject = s.inject ∧ s.readFault.media = s.media ∧ s.readFault.ctl = s.ctl ∧ s.readFault.log = s.log ∧
    s.readFault.counters = s.counters ∧ s.readFault.flags = s.flags ∧ s.readFault.mask = s.mask ∧
    s.readFault.freeCount = s.freeCount ∧ s.readFault.pending = s.pending := by
  unfold State.readFault
  split <;> simp

@[simp] theorem State.popFault_frame :
    s.popFault.us = s.us ∧ s.popFault.remap = s.remap ∧ s.popFault.regions = s.regions ∧ s.popFault.srq = s.srq ∧
    s.popFault.engine = s.engine ∧ s.popFault.watch = s.watch ∧ s.popFault.patrol = s.patrol ∧
    s.popFault.inject = s.inject ∧ s.popFault.media = s.media ∧ s.popFault.ctl = s.ctl ∧ s.popFault.counters = s.counters ∧
    s.popFault.flags = s.flags ∧ s.popFault.mask = s.mask ∧ s.popFault.freeCount = s.freeCount ∧
    s.popFault.pending = s.pending := by
  unfold State.popFault
  split <;> simp

@[simp] theorem State.readCounters_frame (g : Nat) (c : Option Bool) :
    (s.readCounters g c).us = s.us ∧ (s.readCounters g c).remap = s.remap ∧ (s.readCounters g c).regions = s.regions ∧
    (s.readCounters g c).srq = s.srq ∧ (s.readCounters g c).engine = s.engine ∧ (s.readCounters g c).watch = s.watch ∧
    (s.readCounters g c).patrol = s.patrol ∧ (s.readCounters g c).inject = s.inject ∧ (s.readCounters g c).media = s.media ∧
    (s.readCounters g c).ctl = s.ctl ∧ (s.readCounters g c).log = s.log ∧ (s.readCounters g c).flags = s.flags ∧
    (s.readCounters g c).mask = s.mask ∧ (s.readCounters g c).freeCount = s.freeCount ∧
    (s.readCounters g c).pending = s.pending := by
  unfold State.readCounters
  repeat' split
  all_goals simp

@[simp] theorem State.setAlertMask_frame (m : BitVec 16) :
    (s.setAlertMask m).us = s.us ∧ (s.setAlertMask m).remap = s.remap ∧ (s.setAlertMask m).regions = s.regions ∧
    (s.setAlertMask m).srq = s.srq ∧ (s.setAlertMask m).engine = s.engine ∧ (s.setAlertMask m).watch = s.watch ∧
    (s.setAlertMask m).patrol = s.patrol ∧ (s.setAlertMask m).inject = s.inject ∧ (s.setAlertMask m).media = s.media ∧
    (s.setAlertMask m).ctl = s.ctl ∧ (s.setAlertMask m).log = s.log ∧ (s.setAlertMask m).counters = s.counters ∧
    (s.setAlertMask m).flags = s.flags ∧ (s.setAlertMask m).freeCount = s.freeCount ∧
    (s.setAlertMask m).pending = s.pending := by
  unfold State.setAlertMask
  split <;> simp

end Sys2Proof.Machine
end

