-- ==== Sys2Proof/Laws/Commands.lean ====
section
/-! SUPPORT. What a command row does once it can be taken, and how a command ends (R175). -/

namespace Sys2Proof.Machine

/-- A command that can be taken runs its block's taking on the latched parameters, in the BUSY state. -/
theorem runCommand_of_takes {s : State} {code : Byte} {p : Params} (take : Params → State → State) (h : s.takes code p) :
    s.runCommand code take = take p (s.busy code p) := by
  rcases h with ⟨hr, rfl⟩ | ⟨hr, hc⟩
  · simp [State.runCommand, hr, State.startCommand, State.setMgmt, State.busy]
  · have hs : s.busy code p = s := by
      subst hc
      simp only [State.busy, ← hr]
    simp [State.runCommand, hr, hs]

/-- A PATROL_CONTROL row whose operation PARAM[0] names runs its taking. -/
theorem runPatrol_of_takes {s : State} {op : Byte} {p : Params} (take : Params → State → State)
    (h : s.takes codePatrolControl p) (hop : byteOf (paramByte p 0) = op) :
    s.runPatrol op take = take p (s.busy codePatrolControl p) := by
  simp [State.runPatrol, runCommand_of_takes _ h, hop]

/-- While another command is BUSY, a command row is a COMMAND write that is ignored (R176). -/
theorem runCommand_of_busy {s : State} {code : Byte} {r : Running} (take : Params → State → State)
    (h : s.mgmt.running = some r) (hr : r.code ≠ code ∨ r.taken = true) : s.runCommand code take = s.overrun := by
  rcases hr with hr | hr <;> simp [State.runCommand, h, hr]

/-- Completing a command that is BUSY with no other effect finishes it. -/
@[simp] theorem busy_complete (s : State) (code : Byte) (p : Params) (r : ResultCode) :
    (s.busy code p).complete r = s.finished code r := rfl

/-- Every property that management-port changes, flags and the taking keep is kept by a command row. -/
theorem runCommand_keeps {P : State → Prop} {s : State} {code : Byte} {take : Params → State → State}
    (mgmt : ∀ s m, P s → P (s.setMgmt m)) (flag : ∀ s f, P s → P (s.setFlag f)) (taking : ∀ p s, P s → P (take p s))
    (h : P s) : P (s.runCommand code take) := by
  unfold State.runCommand
  split
  · exact taking _ _ (mgmt _ _ h)
  · split
    · exact taking _ _ h
    · exact flag _ _ h

/-- The values a completed command leaves in the management port. -/
@[simp] theorem complete_mgmt (s : State) (r : ResultCode) :
    (s.complete r).mgmt = { s.mgmt with result := r, running := none } := rfl

@[simp] theorem finished_mgmt (s : State) (code : Byte) (r : ResultCode) :
    (s.finished code r).mgmt = { s.mgmt with command := code, result := r, running := none } := rfl

@[simp] theorem busy_mgmt (s : State) (code : Byte) (p : Params) : (s.busy code p).mgmt =
    { s.mgmt with command := code, running := some { code := code, params := p, taken := false } } := rfl

/-! ### The rows of the media port -/

/-- A read completion is accepted by the work of its slot, or discarded as late (R130). -/
theorem execReadCompletion_cases (i : SlotNo) (ep : Epoch) (l : Bool) (d : StoredLine) (s : State) :
    execReadCompletion i ep l d s = .next (s.lateCompletion i ep l)
      ∨ ∃ w, (s.slot i).work = some w ∧ execReadCompletion i ep l d s = .next (s.acceptRead i w d) := by
  unfold execReadCompletion
  split
  · exact .inl rfl
  · rename_i w hw
    by_cases hc : ep = (s.slot i).epoch ∧ w.phase ≠ .write
    · exact .inr ⟨w, hw, if_pos hc⟩
    · exact .inl (if_neg hc)

/-- A write completion is accepted by the work of its slot, or discarded as late (R130). -/
theorem execWriteCompletion_cases (i : SlotNo) (ep : Epoch) (l : Bool) (s : State) :
    execWriteCompletion i ep l s = .next (s.lateCompletion i ep l)
      ∨ ∃ w, (s.slot i).work = some w ∧ execWriteCompletion i ep l s = .next (s.acceptWrite i w l) := by
  unfold execWriteCompletion
  split
  · exact .inl rfl
  · rename_i w hw
    by_cases hc : ep = (s.slot i).epoch ∧ w.phase = .write ∧ (if l then w.leg1 else w.leg0) = true
    · exact .inr ⟨w, hw, if_pos hc⟩
    · exact .inl (if_neg hc)

end Sys2Proof.Machine
end

