-- ==== Sys2Proof/Laws/Remap.lean ====
section
/-! SUPPORT. The Remap Table and the pools: what a slot, a spare and a pool hold after each operation on them. -/

namespace Sys2Proof.Machine

/-! ### Slots of the table -/

theorem mem_of_mem_putEntry {n : Nat} {e : RemapEntry} {t : List (Nat × RemapEntry)} {x : Nat × RemapEntry}
    (h : x ∈ putEntry n e t) : x = (n, e) ∨ x ∈ t := by
  induction t with
  | nil => simpa [putEntry] using h
  | cons y ys ih =>
    unfold putEntry at h
    split at h
    · simpa using h
    · split at h
      · simp only [List.mem_cons] at h ⊢; tauto
      · simp only [List.mem_cons] at h ⊢
        rcases h with h | h
        · exact .inr (.inl h)
        · exact (ih h).imp_right .inr

theorem mem_putEntry_self (n : Nat) (e : RemapEntry) (t : List (Nat × RemapEntry)) : (n, e) ∈ putEntry n e t := by
  induction t with
  | nil => simp [putEntry]
  | cons y ys ih =>
    unfold putEntry
    repeat' split
    all_goals simp [ih]

theorem find_putEntry (n : Nat) (e : RemapEntry) (t : List (Nat × RemapEntry)) (m : Nat) :
    ((putEntry n e t).find? fun x => x.1 == m) = if m = n then some (n, e) else t.find? fun x => x.1 == m := by
  by_cases h : m = n
  · subst h
    rw [if_pos rfl]
    induction t with
    | nil => simp [putEntry]
    | cons y ys ih =>
      unfold putEntry
      split
      · simp
      · split
        · simp
        · rename_i h2
          rw [List.find?_cons_of_neg (by simpa using fun h' => h2 h'.symm), ih]
  · have hn : (n == m) = false := by simpa using fun h' : n = m => h h'.symm
    rw [if_neg h]
    induction t with
    | nil => simp [putEntry, hn]
    | cons y ys ih =>
      unfold putEntry
      split
      · simp [List.find?_cons, hn]
      · split
        · rename_i h2
          simp [← h2, hn]
        · rw [List.find?_cons, List.find?_cons, ih]

/-- The entry of each slot after an entry is put in place (R26). -/
@[simp] theorem entryAt_putEntry (r : Remap) (n : Nat) (e : RemapEntry) (m : Nat) :
    Remap.entryAt { r with table := putEntry n e r.table } m = if m = n then some e else r.entryAt m := by
  simp only [Remap.entryAt, find_putEntry]
  split <;> rfl

/-- The entry of each slot after a slot is made FREE. -/
@[simp] theorem entryAt_dropSlot (r : Remap) (n m : Nat) :
    Remap.entryAt { r with table := dropSlot n r.table } m = if m = n then none else r.entryAt m := by
  simp only [Remap.entryAt, dropSlot, List.find?_filter]
  split
  · rename_i h
    subst h
    simp
  · rename_i h
    congr 1
    refine List.find?_congr fun x _ => ?_
    by_cases hx : x.1 = m <;> simp [hx, h]

/-- A lookup by slot finds an entry of the table. -/
theorem mem_of_entryAt {r : Remap} {n : Nat} {e : RemapEntry} (h : r.entryAt n = some e) : (n, e) ∈ r.table := by
  simp only [Remap.entryAt, Option.map_eq_some_iff] at h
  obtain ⟨x, hx, rfl⟩ := h
  have := List.find?_some hx
  simp only [beq_iff_eq] at this
  exact this ▸ List.mem_of_find?_eq_some hx

/-- A search by key finds an entry of the table with that key (R27). -/
theorem find_spec {r : Remap} {bank row : Nat} {x : Nat × RemapEntry} (h : r.find bank row = some x) :
    x ∈ r.table ∧ x.2.bank = bank ∧ x.2.row = row := by
  have := List.find?_some h
  simp only [Bool.and_eq_true, beq_iff_eq] at this
  exact ⟨List.mem_of_find?_eq_some h, this⟩

/-- No entry has a key that the search does not find (R27). -/
theorem find_none_iff {r : Remap} {bank row : Nat} :
    r.find bank row = none ↔ ∀ x ∈ r.table, ¬(x.2.bank = bank ∧ x.2.row = row) := by
  simp [Remap.find]

/-- The lowest FREE slot (R27). -/
theorem freeSlot_spec {r : Remap} {n : Nat} (h : r.freeSlot = some n) :
    n < 256 ∧ (∀ x ∈ r.table, x.1 ≠ n) ∧ ∀ m, m < n → ∃ x ∈ r.table, x.1 = m := by
  unfold Remap.freeSlot at h
  rw [List.find?_range_eq_some] at h
  obtain ⟨h1, h2, h3⟩ := h
  refine ⟨by simpa [Config.tableSlots] using h2, by simpa using h1, fun m hm => ?_⟩
  have := h3 m hm
  simpa using this

/-- A full table has no FREE slot (R27). -/
theorem freeSlot_none_iff {r : Remap} : r.freeSlot = none ↔ ∀ n, n < 256 → ∃ x ∈ r.table, x.1 = n := by
  simp [Remap.freeSlot, Config.tableSlots]

/-- An entry put into a FREE slot adds one. -/
theorem putEntry_length {n : Nat} {e : RemapEntry} {t : List (Nat × RemapEntry)} (h : ∀ x ∈ t, x.1 ≠ n) :
    (putEntry n e t).length = t.length + 1 := by
  induction t with
  | nil => rfl
  | cons y ys ih =>
    unfold putEntry
    split
    · rfl
    · split
      · rename_i h2
        exact absurd h2.symm (h y (by simp))
      · simp [ih fun x hx => h x (by simp [hx])]

/-! ### Tables in slot order -/

/-- In a table in slot order an entry put in place replaces that of its slot and keeps the others. -/
theorem mem_putEntry_iff {n : Nat} {e : RemapEntry} {t : List (Nat × RemapEntry)} (h : t.Pairwise fun x y => x.1 < y.1)
    {x : Nat × RemapEntry} : x ∈ putEntry n e t ↔ x = (n, e) ∨ x ∈ t ∧ x.1 ≠ n := by
  induction t with
  | nil => simp [putEntry]
  | cons y ys ih =>
    rw [List.pairwise_cons] at h
    unfold putEntry
    split
    · rename_i h1
      simp only [List.mem_cons]
      constructor
      · rintro (h' | rfl | h')
        · exact .inl h'
        · exact .inr ⟨.inl rfl, by omega⟩
        · exact .inr ⟨.inr h', by have := h.1 x h'; omega⟩
      · rintro (h' | ⟨h', -⟩)
        · exact .inl h'
        · exact .inr h'
    · split
      · rename_i h1 h2
        simp only [List.mem_cons]
        constructor
        · rintro (h' | h')
          · exact .inl h'
          · exact .inr ⟨.inr h', by have := h.1 x h'; omega⟩
        · rintro (h' | ⟨rfl | h', hn⟩)
          · exact .inl h'
          · exact absurd h2.symm hn
          · exact .inr h'
      · rename_i h1 h2
        simp only [List.mem_cons, ih h.2]
        constructor
        · rintro (rfl | h' | h')
          · exact .inr ⟨.inl rfl, fun h' => h2 h'.symm⟩
          · exact .inl h'
          · exact .inr ⟨.inr h'.1, h'.2⟩
        · rintro (h' | ⟨h' | h', hn⟩)
          · exact .inr (.inl h')
          · exact .inl h'
          · exact .inr (.inr ⟨h', hn⟩)

/-- An entry put in place keeps the slot order. -/
theorem putEntry_rises {n : Nat} {e : RemapEntry} {t : List (Nat × RemapEntry)} (h : t.Pairwise fun x y => x.1 < y.1) :
    (putEntry n e t).Pairwise fun x y => x.1 < y.1 := by
  induction t with
  | nil => simp [putEntry]
  | cons y ys ih =>
    have h' := List.pairwise_cons.mp h
    unfold putEntry
    split
    · rename_i h1
      refine List.pairwise_cons.mpr ⟨fun z hz => ?_, h⟩
      rcases List.mem_cons.mp hz with rfl | hz
      · exact h1
      · exact Nat.lt_trans h1 (h'.1 z hz)
    · split
      · rename_i h1 h2
        exact List.pairwise_cons.mpr ⟨fun z hz => by have := h'.1 z hz; dsimp only; omega, h'.2⟩
      · rename_i h1 h2
        refine List.pairwise_cons.mpr ⟨fun z hz => ?_, ih h'.2⟩
        rcases mem_of_mem_putEntry hz with rfl | hz
        · dsimp only; omega
        · exact h'.1 z hz

/-! ### Spares and pools -/

@[simp] theorem setSpare_frame (r : Remap) (b k : Nat) (st : SpareState) :
    (r.setSpare b k st).s = r.s ∧ (r.setSpare b k st).table = r.table ∧ (r.setSpare b k st).lowWater = r.lowWater :=
  ⟨rfl, rfl, rfl⟩

theorem find_insertMark {m : SpareMark} {l : List SpareMark} (h : ∀ x ∈ l, ¬(x.bank = m.bank ∧ x.index = m.index))
    (b k : Nat) : ((insertMark m l).find? fun x => x.bank == b && x.index == k)
      = if m.bank = b ∧ m.index = k then some m else l.find? fun x => x.bank == b && x.index == k := by
  induction l with
  | nil => by_cases hm : m.bank = b ∧ m.index = k <;> simp [insertMark, hm]
  | cons y ys ih =>
    have ih := ih fun x hx => h x (by simp [hx])
    have hy := h y (by simp)
    unfold insertMark
    split
    · by_cases hm : m.bank = b ∧ m.index = k <;> simp [List.find?_cons, hm]
    · simp only [List.find?_cons, ih]
      by_cases hm : m.bank = b ∧ m.index = k
      · have : (y.bank == b && y.index == k) = false := by
          simp only [Bool.and_eq_false_iff, beq_eq_false_iff_ne]
          obtain ⟨rfl, rfl⟩ := hm
          by_cases hb : y.bank = m.bank
          · exact .inr fun hi => hy ⟨hb, hi⟩
          · exact .inl hb
        simp [this, hm]
      · simp [hm]

/-- The state of each spare after one spare's state is changed (R31). -/
@[simp] theorem spareState_setSpare (r : Remap) (b k : Nat) (st : SpareState) (b' k' : Nat) :
    (r.setSpare b k st).spareState b' k' = if b' = b ∧ k' = k then st else r.spareState b' k' := by
  have rest : ∀ x ∈ r.spares.filter fun m => !(m.bank == b && m.index == k), ¬(x.bank = b ∧ x.index = k) := by
    intro x hx
    simp only [List.mem_filter, Bool.not_eq_true', Bool.and_eq_false_iff, beq_eq_false_iff_ne] at hx
    tauto
  have other : ¬(b' = b ∧ k' = k) →
      ((r.spares.filter fun m => !(m.bank == b && m.index == k)).find? fun m => m.bank == b' && m.index == k')
        = r.spares.find? fun m => m.bank == b' && m.index == k' := by
    intro hne
    rw [List.find?_filter]
    refine List.find?_congr fun x _ => ?_
    by_cases h1 : x.bank = b' <;> by_cases h2 : x.index = k' <;> simp [h1, h2]
    exact not_and_or.mp hne
  have none_of : b' = b ∧ k' = k →
      ((r.spares.filter fun m => !(m.bank == b && m.index == k)).find? fun m => m.bank == b' && m.index == k') = none := by
    rintro ⟨rfl, rfl⟩
    simp only [List.find?_eq_none, Bool.and_eq_true, beq_iff_eq]
    exact rest
  unfold Remap.setSpare Remap.spareState
  cases st <;> dsimp only
  · by_cases h : b' = b ∧ k' = k
    · rw [none_of h, if_pos h]
    · rw [other h, if_neg h]
  · rw [find_insertMark rest]
    by_cases h : b' = b ∧ k' = k
    · simp [h]
    · rw [if_neg (fun h' => h ⟨h'.1.symm, h'.2.symm⟩), other h, if_neg h]
  · rw [find_insertMark rest]
    by_cases h : b' = b ∧ k' = k
    · simp [h]
    · rw [if_neg (fun h' => h ⟨h'.1.symm, h'.2.symm⟩), other h, if_neg h]

/-- The pool of a bank is its FREE spare indices (R30). -/
@[simp] theorem mem_pool {r : Remap} {bank k : Nat} : k ∈ r.pool bank ↔ k < r.s ∧ r.spareState bank k = .free := by
  simp [Remap.pool]

/-- The pool is in ascending order (R30). -/
theorem pool_rises (r : Remap) (bank : Nat) : (r.pool bank).Pairwise (· < ·) :=
  List.Pairwise.filter _ (List.pairwise_lt_range)

/-- The lowest FREE spare is FREE, and below S. -/
theorem pool_head {r : Remap} {bank k : Nat} (h : (r.pool bank).head? = some k) : k < r.s ∧ r.spareState bank k = .free :=
  mem_pool.mp (List.mem_of_mem_head? h)

/-! ### What the shared operations leave in the remap block -/

@[simp] theorem createEntry_remap (s : State) (n : Nat) (e : RemapEntry) :
    (s.createEntry n e).remap = { s.remap with table := putEntry n e s.remap.table } := by
  unfold State.createEntry
  dsimp only
  split <;> rfl

@[simp] theorem assignSpare_remap (s : State) (b k : Nat) : (s.assignSpare b k).remap = s.remap.setSpare b k .assigned := by
  simp [State.assignSpare]

@[simp] theorem markDead_remap (s : State) (b k : Nat) : (s.markDead b k).remap = s.remap.setSpare b k .dead := by
  simp [State.markDead]

end Sys2Proof.Machine
end

