-- ==== Sys2Proof/Laws/Operations.lean ====
section
/-! SUPPORT. What the shared operations write: the fields that each changes, beside the frames that say what each leaves. -/

namespace Sys2Proof.Machine

variable (s : State)

/-- Two states with the same fields are one state. -/
theorem State.same {a b : State} (us : a.us = b.us) (remap : a.remap = b.remap) (regions : a.regions = b.regions)
    (srq : a.srq = b.srq) (engine : a.engine = b.engine) (watch : a.watch = b.watch) (patrol : a.patrol = b.patrol)
    (inject : a.inject = b.inject) (media : a.media = b.media) (ctl : a.ctl = b.ctl) (log : a.log = b.log)
    (counters : a.counters = b.counters) (flags : a.flags = b.flags) (mask : a.mask = b.mask) (mgmt : a.mgmt = b.mgmt)
    (freeCount : a.freeCount = b.freeCount) (pending : a.pending = b.pending) : a = b := by
  cases a
  cases b
  simp only at *
  simp [*]

/-! ### Records, flags, counters -/

@[simp] theorem State.setFlag_flags (f : Flag) : (s.setFlag f).flags = s.flags ||| (1#16 <<< f.bit) := rfl

@[simp] theorem State.count_counters (c : Counter) :
    (s.count c).counters = s.counters.set c.index (min (s.counters[c.index] + 1) 65535) := rfl

/-- An offered record joins a log that is not full (R162). -/
@[simp] theorem State.offerRecord_log (o : Offer) : (s.offerRecord o).log =
    if s.log.records.length < 32 then
      { records := s.log.records ++ [{ seq := s.log.nextSeq, body := o }], nextSeq := s.log.nextSeq + 1 }
    else s.log := by
  unfold State.offerRecord Config.logPlaces
  split <;> rfl

@[simp] theorem State.offerRecord_counters (o : Offer) : (s.offerRecord o).counters =
    if s.log.records.length < 32 then s.counters else s.counters.set 11 (min (s.counters[11] + 1) 65535) := by
  unfold State.offerRecord Config.logPlaces
  split <;> rfl

@[simp] theorem State.offerRecord_flags (o : Offer) : (s.offerRecord o).flags =
    if s.log.records.length < 32 then s.flags else s.flags ||| 0x0002 := by
  unfold State.offerRecord Config.logPlaces
  split <;> rfl

/-! ### Tables and pools -/

@[simp] theorem State.testLowWater_flags (b : Nat) : (s.testLowWater b).flags =
    if (s.remap.pool b).length < s.remap.lowWater then s.flags ||| 0x0020 else s.flags := by
  unfold State.testLowWater
  split <;> rfl

@[simp] theorem State.assignSpare_flags (b k : Nat) : (s.assignSpare b k).flags =
    if ((s.remap.setSpare b k .assigned).pool b).length < s.remap.lowWater then s.flags ||| 0x0020 else s.flags := by
  simp [State.assignSpare]

@[simp] theorem State.createEntry_flags (n : Nat) (e : RemapEntry) : (s.createEntry n e).flags =
    if (Machine.putEntry n e s.remap.table).length = 256 then s.flags ||| 0x0040 else s.flags := by
  unfold State.createEntry Config.tableSlots
  by_cases h : (Machine.putEntry n e s.remap.table).length = 256
  · rw [if_pos h]
    exact (if_pos (show (s.putEntry n e).remap.table.length = 256 from h)).symm ▸ rfl
  · rw [if_neg h]
    exact (if_neg (show ¬(s.putEntry n e).remap.table.length = 256 from h)).symm ▸ rfl

@[simp] theorem State.putEntry_remap (n : Nat) (e : RemapEntry) :
    (s.putEntry n e).remap = { s.remap with table := Machine.putEntry n e s.remap.table } := rfl

@[simp] theorem State.dropSlot_remap (n : Nat) :
    (s.dropSlot n).remap = { s.remap with table := Machine.dropSlot n s.remap.table } := rfl

@[simp] theorem State.returnSpare_remap (b k : Nat) : (s.returnSpare b k).remap = s.remap.setSpare b k .free := rfl

@[simp] theorem State.retireSpare_remap (b k : Nat) : (s.retireSpare b k).remap = s.remap.setSpare b k .dead := rfl

/-- The spares other than one, and that one, after a change of a pool's table alone (R31). -/
@[simp] theorem spareState_table (r : Remap) (t : List (Nat × RemapEntry)) (b k : Nat) :
    Remap.spareState { r with table := t } b k = r.spareState b k := rfl

@[simp] theorem pool_table (r : Remap) (t : List (Nat × RemapEntry)) (b : Nat) :
    Remap.pool { r with table := t } b = r.pool b := rfl

/-- A lookup by slot reads the table alone; the state of a spare, the marks alone; a pool, the marks and S. -/
theorem entryAt_congr {a b : Remap} (h : a.table = b.table) (n : Nat) : a.entryAt n = b.entryAt n := by simp [Remap.entryAt, h]

theorem spareState_congr {a b : Remap} (h : a.spares = b.spares) (bank k : Nat) : a.spareState bank k = b.spareState bank k := by
  simp [Remap.spareState, h]

theorem pool_congr {a b : Remap} (h : a.spares = b.spares) (hs : a.s = b.s) (bank : Nat) : a.pool bank = b.pool bank := by
  unfold Remap.pool
  rw [hs]
  exact List.filter_congr fun k _ => by rw [spareState_congr h]

/-- Pools and spares do not depend on the table. -/
theorem pool_setSpare_table (r : Remap) (t : List (Nat × RemapEntry)) (b k : Nat) (st : SpareState) (b' : Nat) :
    (Remap.setSpare { r with table := t } b k st).pool b' = (r.setSpare b k st).pool b' := rfl

@[simp] theorem entryAt_setSpare (r : Remap) (b k : Nat) (st : SpareState) (n : Nat) :
    (r.setSpare b k st).entryAt n = r.entryAt n := rfl

/-! ### Media slots -/

@[simp] theorem State.setSlot_slot (i j : SlotNo) (m : MediaSlot) :
    (s.setSlot i m).slot j = if j = i then m else s.slot j := by
  simp only [State.setSlot, State.slot, Vector.getElem_set]
  by_cases h : j = i
  · simp [h]
  · have : i.toNat ≠ j.toNat := fun h' => h (BitVec.eq_of_toNat_eq h'.symm)
    simp [h, this]

@[simp] theorem State.setWork_slot (i j : SlotNo) (w : Work) :
    (s.setWork i w).slot j = if j = i then { epoch := (s.slot i).epoch, work := some w } else s.slot j := by
  simp [State.setWork]

@[simp] theorem State.freeSlot_slot (i j : SlotNo) :
    (s.freeSlot i).slot j = if j = i then { epoch := (s.slot i).epoch, work := none } else s.slot j := by
  simp [State.freeSlot]

/-- A slot is read from the table alone. -/
theorem State.slot_congr {a b : State} (h : a.media = b.media) (i : SlotNo) : a.slot i = b.slot i := by
  simp [State.slot, h]

/-- What orphaning does to each slot: the copy in flight at the background slot enters ORPHAN (R68). -/
theorem State.orphanCopy_slot (j : SlotNo) : s.orphanCopy.slot j =
    match (s.slot j).work with
    | none => s.slot j
    | some w =>
      if j = background ∧ w.owner = .copy then { epoch := (s.slot j).epoch, work := some { w with stage := .orphan } }
      else s.slot j := by
  unfold State.orphanCopy
  by_cases hj : j = background
  · subst hj
    split
    · simp_all
    · rename_i w h
      split <;> simp_all
  · split
    · split <;> simp_all
    · split
      · split <;> simp_all
      · split <;> simp_all

@[simp] theorem State.orphanCopy_epoch (j : SlotNo) : (s.orphanCopy.slot j).epoch = (s.slot j).epoch := by
  rw [State.orphanCopy_slot]
  split
  · rfl
  · split <;> rfl

/-- Orphaning changes the slots alone. -/
theorem State.orphanCopy_media : s.orphanCopy.media = { s.media with slots := s.orphanCopy.media.slots } := by
  unfold State.orphanCopy
  split
  · rfl
  · split <;> rfl

/-! ### Abort and restart (R64, R67) -/

/-- The engine's context and entry, where the context names an entry of the table. -/
theorem State.engineEntry_eq {s : State} {c : EngineCtx} {e : RemapEntry} (h1 : s.engine = some c)
    (h2 : s.remap.entryAt c.entrySlot = some e) : s.engineEntry = some (c, e) := by
  simp [State.engineEntry, h1, h2]

@[simp] theorem State.abort_engine (y : AbortReason) : (s.abort y).engine = none := by
  unfold State.abort
  split <;> rfl

/-- The Remap Table and the pools after a revert (R28). -/
theorem State.revert_remap (c : EngineCtx) (e : RemapEntry) (y : AbortReason) : (s.revert c e y).remap =
    Remap.setSpare
      { s.remap with table :=
          match c.source with
          | .original => Machine.dropSlot c.entrySlot s.remap.table
          | .spare k => Machine.putEntry c.entrySlot { e with state := .active, dest := k, time := s.now } s.remap.table }
      e.bank c.dest (if y = .restartLimit then .dead else .free) := by
  unfold State.revert
  cases c.source <;> dsimp only <;> split <;> rfl

variable {s}

theorem State.abort_remap {c : EngineCtx} {e : RemapEntry} (y : AbortReason) (h1 : s.engine = some c)
    (h2 : s.remap.entryAt c.entrySlot = some e) : (s.abort y).remap = (s.revert c e y).remap := by
  simp [State.abort, State.engineEntry_eq h1 h2, State.revert_remap, State.now]

theorem State.abort_media {c : EngineCtx} {e : RemapEntry} (y : AbortReason) (h1 : s.engine = some c)
    (h2 : s.remap.entryAt c.entrySlot = some e) : (s.abort y).media = s.orphanCopy.media := by
  simp [State.abort, State.engineEntry_eq h1 h2]

theorem State.abort_ctl {c : EngineCtx} {e : RemapEntry} (y : AbortReason) (h1 : s.engine = some c)
    (h2 : s.remap.entryAt c.entrySlot = some e) : (s.abort y).ctl = (s.releaseHeld fun _ => true).ctl := by
  simp [State.abort, State.engineEntry_eq h1 h2, State.releaseHeld]

/-- What an abort leaves in each slot of the table (R67). -/
theorem State.abort_entryAt {c : EngineCtx} {e : RemapEntry} (y : AbortReason) (h1 : s.engine = some c)
    (h2 : s.remap.entryAt c.entrySlot = some e) (n : Nat) : (s.abort y).remap.entryAt n =
    if n = c.entrySlot then
      match c.source with
      | .original => none
      | .spare d => some { e with state := .active, dest := d, time := s.now }
    else s.remap.entryAt n := by
  rw [State.abort_remap y h1 h2, State.revert_remap]
  cases c.source <;> simp

/-- What an abort leaves in the pools (R67). -/
theorem State.abort_spareState {c : EngineCtx} {e : RemapEntry} (y : AbortReason) (h1 : s.engine = some c)
    (h2 : s.remap.entryAt c.entrySlot = some e) (b k : Nat) : (s.abort y).remap.spareState b k =
    if b = e.bank ∧ k = c.dest then (if y = .restartLimit then .dead else .free) else s.remap.spareState b k := by
  rw [State.abort_remap y h1 h2, State.revert_remap]
  simp

theorem State.abort_remap_rest {c : EngineCtx} {e : RemapEntry} (y : AbortReason) (h1 : s.engine = some c)
    (h2 : s.remap.entryAt c.entrySlot = some e) :
    (s.abort y).remap.s = s.remap.s ∧ (s.abort y).remap.lowWater = s.remap.lowWater := by
  rw [State.abort_remap y h1 h2, State.revert_remap]
  exact ⟨rfl, rfl⟩

/-- The record of an abort (R73). -/
def State.abortRecord (s : State) (c : EngineCtx) (e : RemapEntry) (y : AbortReason) : Offer :=
  { kind := .spareAborted, time := s.now, origin := y.origin, injected := false, line := some (lineOf e.row e.bank 0)
    phys := some (s.spareAddr e.bank c.dest), slot := some c.entrySlot, detail := y.code }

theorem State.abort_reports {c : EngineCtx} {e : RemapEntry} (y : AbortReason) (h1 : s.engine = some c)
    (h2 : s.remap.entryAt c.entrySlot = some e) :
    (s.abort y).log = (s.offerRecord (s.abortRecord c e y)).log
    ∧ (s.abort y).counters = (s.offerRecord (s.abortRecord c e y)).counters
    ∧ (s.abort y).flags = (s.offerRecord (s.abortRecord c e y)).flags := by
  simp [State.abort, State.engineEntry_eq h1 h2, State.offerRow, State.abortRecord, State.now, State.spareAddr,
    State.revert_remap]

/-! ### What the engine's operations never touch -/

/-- What the engine, the queue and the dispatch of a read leave: the media port but for the work in the background slot, S, the
low-water mark, and the Inbound Request Queue but for HELD entries that are released. -/
structure State.Steady (a b : State) : Prop where
  port : b.media = { a.media with slots := b.media.slots }
  epochs : ∀ i : SlotNo, (b.slot i).epoch = (a.slot i).epoch
  upstream : ∀ i : SlotNo, i ≠ background → b.slot i = a.slot i
  reservation : b.remap.s = a.remap.s
  lowWater : b.remap.lowWater = a.remap.lowWater
  queue : ∃ f : IrqEntry → IrqEntry, (∀ e, (f e).tag = e.tag ∧ (f e).kind = e.kind ∧ (f e).line = e.line)
    ∧ b.ctl = { a.ctl with irq := a.ctl.irq.map f }

namespace State.Steady

variable {a b c : State}

theorem trans (h : a.Steady b) (k : b.Steady c) : a.Steady c where
  port := by rw [k.port, h.port]
  epochs i := by rw [k.epochs, h.epochs]
  upstream i hi := by rw [k.upstream i hi, h.upstream i hi]
  reservation := by rw [k.reservation, h.reservation]
  lowWater := by rw [k.lowWater, h.lowWater]
  queue := by
    obtain ⟨f, hf, hb⟩ := h.queue
    obtain ⟨g, hg, hc⟩ := k.queue
    refine ⟨g ∘ f, fun e => ?_, ?_⟩
    · obtain ⟨h1, h2, h3⟩ := hg (f e)
      obtain ⟨k1, k2, k3⟩ := hf e
      exact ⟨h1.trans k1, h2.trans k2, h3.trans k3⟩
    · rw [hc, hb]; simp

/-- The ports left, and a table and pools of the same S and mark. -/
theorem of_media (hm : b.media = a.media) (hc : b.ctl = a.ctl) (hs : b.remap.s = a.remap.s)
    (hl : b.remap.lowWater = a.remap.lowWater) : a.Steady b where
  port := by rw [hm]
  epochs i := by rw [State.slot_congr hm]
  upstream i _ := by rw [State.slot_congr hm]
  reservation := hs
  lowWater := hl
  queue := ⟨id, fun _ => ⟨rfl, rfl, rfl⟩, by simp [hc]⟩

theorem of_same (hm : b.media = a.media) (hc : b.ctl = a.ctl) (hr : b.remap = a.remap) : a.Steady b :=
  of_media hm hc (by rw [hr]) (by rw [hr])

theorem refl (a : State) : a.Steady a := of_same rfl rfl rfl

theorem orphanCopy (s : State) : s.Steady s.orphanCopy where
  port := s.orphanCopy_media
  epochs := s.orphanCopy_epoch
  upstream i hi := by
    rw [State.orphanCopy_slot]
    cases (s.slot i).work <;> simp [hi]
  reservation := by simp
  lowWater := by simp
  queue := ⟨id, fun _ => ⟨rfl, rfl, rfl⟩, by simp⟩

theorem releaseHeld (s : State) (which : Nat → Bool) : s.Steady (s.releaseHeld which) where
  port := rfl
  epochs _ := rfl
  upstream _ _ := rfl
  reservation := rfl
  lowWater := rfl
  queue := ⟨_, fun e => by split <;> exact ⟨rfl, rfl, rfl⟩, rfl⟩

theorem abort (s : State) (y : AbortReason) : s.Steady (s.abort y) := by
  unfold State.abort
  split
  · exact of_same rfl rfl rfl
  · rename_i c e _
    refine ((orphanCopy s).trans (releaseHeld _ fun _ => true)).trans (of_media (by simp) ?_ ?_ ?_)
    · simp [State.releaseHeld]
    · simp [State.revert_remap]
    · simp [State.revert_remap]

theorem restart (s : State) (x : EngineCtx) (e : RemapEntry) (k : Nat) : s.Steady (s.restart x e k) :=
  ((orphanCopy s).trans (releaseHeld _ fun _ => true)).trans
    (of_media (by simp [State.restart]) (by simp [State.restart, State.releaseHeld]) (by simp [State.restart])
      (by simp [State.restart]))

theorem engineTakeFuel (n : Nat) (s : State) : s.Steady (Machine.engineTakeFuel n s) := by
  induction n generalizing s with
  | zero => exact refl s
  | succ n ih =>
    unfold Machine.engineTakeFuel
    split
    · split
      · exact refl s
      · exact (of_same (by simp) (by simp) (by simp)).trans (ih _)
      · refine of_media (by simp) (by simp) ?_ ?_ <;> (unfold State.startMigration; split <;> simp)
    · exact refl s

theorem engineTake (s : State) : s.Steady s.engineTake := engineTakeFuel _ s

theorem offerSparing (s : State) (b r : Nat) (y : SpareCause) : s.Steady (s.offerSparing b r y) := by
  unfold State.offerSparing
  split
  · exact refl s
  · exact refl s
  · exact of_same (by simp) (by simp) (by simp)
  · exact trans (b := { s with srq := s.srq ++ [{ bank := b, row := r, cause := y }] }) (of_same rfl rfl rfl) (engineTake _)

theorem destinationFailure (s : State) : s.Steady s.destinationFailure := by
  unfold State.destinationFailure
  split
  · exact refl s
  · split
    · exact (abort s _).trans (engineTake _)
    · split
      · exact (abort s _).trans (engineTake _)
      · exact restart s _ _ _

theorem dispatch (s : State) (f : ReadFacts) : s.Steady (s.dispatch f) := by
  unfold State.dispatch
  split
  · exact refl s
  · exact of_same (by simp) (by simp) (by simp)
  · unfold State.dispatchCorrected
    have start : s.Steady (((s.count .ceTotal).charge f.addr.bank f.addr.row (rowOf f.line)).1) := of_same (by simp) (by simp) (by simp)
    generalize (s.count .ceTotal).charge f.addr.bank f.addr.row (rowOf f.line) = r at start ⊢
    dsimp only
    have logged : s.Steady (if (r.1.policy (rowOf f.line)).ceLog then r.1.offerRead f (ceKind f.origin) f.detail else r.1) :=
      start.trans (by split <;> exact of_same (by simp) (by simp) (by simp))
    generalize (if (r.1.policy (rowOf f.line)).ceLog then r.1.offerRead f (ceKind f.origin) f.detail else r.1) = z at logged ⊢
    split
    · exact logged
    · rename_i errors _
      refine logged.trans ((of_same (b := z.offerRead f .budgetExhausted (BitVec.ofNat 8 errors)) (by simp) (by simp) (by simp)).trans ?_)
      unfold State.dispatchExhaustion
      split
      · split
        · exact offerSparing _ _ _ _
        · exact refl _
      · split
        · exact offerSparing _ _ _ _
        · exact refl _
      · exact destinationFailure _
      · exact refl _
      · exact refl _
      · exact refl _
  · refine (of_same (b := ((s.count .ueTotal).offerRead f (ueKind f.origin) f.detail).setFlag .ueSeen) (by simp) (by simp) (by simp)).trans ?_
    unfold State.ueOffer
    split
    · exact refl _
    · split
      · unfold State.failedDestinationRead
        dsimp only
        split
        · exact refl _
        · split
          · split
            · exact destinationFailure _
            · split
              · exact offerSparing _ _ _ _
              · exact refl _
          · exact refl _
      · split
        · exact offerSparing _ _ _ _
        · exact refl _

end State.Steady

/-! ### Entries answered together (R85, R154) -/

/-- One pass over the queue answers exactly the entries that no unanswered entry of their line, older or themselves, keeps (R85, R154):
`before` are the entries passed, `older` the lines of those of them that stay. -/
theorem answerPass_from (asks : IrqEntry → Bool) (message : IrqEntry → CtlMsg) (queue : List IrqEntry) :
    ∀ (before : List IrqEntry) (older : List Nat),
      (∀ line, older.contains line = before.any fun y => y.line == line && !asks y) →
      answerPass (fun e => if asks e then some (message e) else none) older queue =
        (((queue.zipIdx before.length).filter fun x => stays asks (before ++ queue) x).map (·.1),
          (((queue.zipIdx before.length).filter fun x => !stays asks (before ++ queue) x).map (·.1)).map message) := by
  induction queue with
  | nil => intros; rfl
  | cons e es ih =>
    intro before older h
    have head : stays asks (before ++ e :: es) (e, before.length) = (older.contains e.line || !asks e) := by
      simp only [stays]
      rw [show before.length + 1 = (before ++ [e]).length by simp, show before ++ e :: es = (before ++ [e]) ++ es by simp,
        List.take_left, List.any_append, h]
      simp
    have next := ih (before ++ [e])
    simp only [List.length_append, List.length_singleton, List.append_assoc, List.singleton_append] at next
    rw [List.zipIdx_cons, List.filter_cons, List.filter_cons, head]
    unfold answerPass
    by_cases kept : older.contains e.line = true
    · rw [if_pos kept, next (e.line :: older)]
      · simp only [kept, Bool.true_or, Bool.not_true, if_true, Bool.false_eq_true, if_false, List.map_cons]
      · intro line
        rw [List.contains_cons, h, List.any_append]
        by_cases same : e.line = line
        · subst same; rw [← h, kept]; simp
        · have : (line == e.line) = false := by simpa using Ne.symm same
          simp [this, same]
    · rw [if_neg kept]
      by_cases a : asks e
      · rw [if_pos a]
        dsimp only
        rw [next older]
        · simp only [Bool.eq_false_iff.mpr kept, a, Bool.not_true, Bool.or_self, Bool.false_eq_true, if_false, Bool.not_false, if_true,
            List.map_cons]
        · intro line
          rw [h, List.any_append]
          simp [a]
      · rw [if_neg a]
        dsimp only
        rw [next (e.line :: older)]
        · simp [a]
        · intro line
          rw [List.contains_cons, h, List.any_append]
          simp only [List.any_cons, List.any_nil, a]
          by_cases same : e.line = line
          · simp [same]
          · have : (line == e.line) = false := by simpa using Ne.symm same
            simp [this, same]

theorem answerPass_eq (asks : IrqEntry → Bool) (message : IrqEntry → CtlMsg) (queue : List IrqEntry) :
    answerPass (fun e => if asks e then some (message e) else none) [] queue =
      (staying asks queue, (answered asks queue).map message) :=
  answerPass_from asks message queue [] [] (by simp)

/-- A queue none of whose entries is answered stays. -/
theorem staying_none (asks : IrqEntry → Bool) (queue : List IrqEntry) (h : ∀ e ∈ queue, asks e = false) :
    staying asks queue = queue ∧ answered asks queue = [] := by
  have all : ∀ x ∈ queue.zipIdx, stays asks queue x = true := by
    rintro ⟨e, i⟩ hx
    have m := List.mem_zipIdx hx
    simp only [stays, List.any_eq_true]
    refine ⟨e, ?_, by simp [h e (by have := m.2.2; simp at this; rw [this]; exact List.getElem_mem _)]⟩
    rw [List.mem_take_iff_getElem]
    refine ⟨i, by have := m.2.1; omega, ?_⟩
    have := m.2.2
    simp at this
    exact this.symm
  constructor
  · rw [staying, List.filter_eq_self.mpr all, List.zipIdx_map_fst]
  · rw [answered, List.filter_eq_nil_iff.mpr (by simpa using fun a b c => all (a, b) c)]
    rfl
/-- The failing answer to an entry (R142). -/
theorem IrqEntry.failed_eq (e : IrqEntry) (cause : FailCause) : e.failed cause = failAnswer e.tag e.kind.writes cause := by
  cases h : e.kind <;> simp [IrqEntry.failed, h, RequestKind.writes, failAnswer]

/-- What a pass of answers leaves: the entries that stay, a credit pending and a message sent for each of the others (R153). -/
theorem State.runPass_eq (s : State) (asks : IrqEntry → Bool) (message : IrqEntry → CtlMsg) :
    s.runPass (fun e => if asks e then some (message e) else none) =
      { s with ctl := { s.ctl with
        irq := staying asks s.ctl.irq, p := s.ctl.p + (answered asks s.ctl.irq).length
        out := s.ctl.out ++ (answered asks s.ctl.irq).map message } } := by
  simp only [State.runPass, answerPass_eq, List.length_map]

/-- What the MEDIA_FAILED answers leave: with the port OK, the queue as it was (R154). -/
theorem State.answerFailed_eq (s : State) :
    let waits (e : IrqEntry) : Bool := s.media.failed && !e.state.isIssued
    s.answerFailed =
      { s with ctl := { s.ctl with
        irq := staying waits s.ctl.irq, p := s.ctl.p + (answered waits s.ctl.irq).length
        out := s.ctl.out ++ (answered waits s.ctl.irq).map (·.failed .mediaFailed) } } := by
  intro waits
  by_cases f : s.media.failed = true
  · rw [← State.runPass_eq, State.answerFailed, if_pos f]
    congr 1
    funext e
    cases h : e.state.isIssued <;> simp [waits, f, h, IrqEntry.failed_eq]
  · obtain ⟨h1, h2⟩ := staying_none waits s.ctl.irq (by simp [waits, f])
    rw [State.answerFailed, if_neg f, h1, h2]
    simp

/-! ### Reads -/

/-- What an accepted read's dispatch leaves (R79). -/
theorem State.Steady.dispatched (s : State) (w : Work) (line : StoredLine) (origin : Origin) (held : Bool) (detail : Byte) :
    s.clearTimeouts.Steady (s.dispatched w line origin held detail) := by
  unfold State.dispatched
  exact State.Steady.trans (b := s.clearTimeouts.countMatches origin w.line) (State.Steady.of_same rfl rfl rfl)
    (State.Steady.dispatch _ _)

/-- An entry that owns a read keeps its tag, kind and line over the read's dispatch. -/
theorem State.Steady.entryOfTag {a b : State} (h : a.Steady b) {tag : Tag} {e : IrqEntry} (own : a.entryOfTag tag = some e) :
    ∃ e', b.entryOfTag tag = some e' ∧ e'.tag = e.tag ∧ e'.kind = e.kind ∧ e'.line = e.line := by
  obtain ⟨f, keeps, ctl⟩ := h.queue
  refine ⟨f e, ?_, keeps e⟩
  unfold State.entryOfTag at own ⊢
  rw [ctl, List.find?_map, Option.map_eq_some_iff]
  refine ⟨e, ?_, rfl⟩
  rw [← own]
  congr 1
  funext x
  simp [keeps x]

/-- Whether a read matches an injection slot (R37, R120, R126). -/
theorem matchesRead_iff (x : InjectSlot) (reservation : Nat) (origin : Origin) (line : Nat) :
    x.matchesRead reservation origin line = true ↔ x.armed = true ∧ x.bank = bankOf line ∧ x.row = rowOf line
      ∧ x.row < 32768 - reservation ∧ (x.column = .any ∨ x.column = .column (columnOf line)) ∧ x.covers origin = true := by
  have visible : rowOk reservation x.row = true ↔ x.row < 32768 - reservation := by
    unfold rowOk visibleRows
    exact decide_eq_true_iff
  have column : x.column.covers (columnOf line) = true ↔ (x.column = .any ∨ x.column = .column (columnOf line)) := by
    cases x.column <;> simp [InjectColumn.covers]
  simp only [InjectSlot.matchesRead, Bool.and_eq_true, beq_iff_eq, visible, column, and_assoc]

/-- A bit of the spread mask is the mask bit of its byte (5.6). -/
theorem spreadMask_bit (mask : ByteMask) (b : Nat) (small : b < 512) : (spreadMask mask).getLsbD b = mask.getLsbD (b / 8) := by
  have byte (i : Nat) : (0xFF#512 <<< (8 * i)).getLsbD b = (i == b / 8) := by
    have inside : (0xFF#512).getLsbD (b - 8 * i) = decide (b - 8 * i < 8) := by
      rw [BitVec.getLsbD_ofNat, show (0xFF : Nat) = 2 ^ 8 - 1 by norm_num, Nat.testBit_two_pow_sub_one]
      simp
      omega
    rw [BitVec.getLsbD_shiftLeft, inside, Bool.eq_iff_iff]
    simp [small]
    omega
  have step : ∀ (l : List Nat) (acc : LineData),
      (l.foldl (fun acc i => if mask.getLsbD i then acc ||| (0xFF#512 <<< (8 * i)) else acc) acc).getLsbD b
        = (acc.getLsbD b || l.any fun i => mask.getLsbD i && i == b / 8) := by
    intro l
    induction l with
    | nil => simp
    | cons i l ih =>
      intro acc
      rw [List.foldl_cons, ih, List.any_cons]
      cases h : mask.getLsbD i
      · simp
      · simp [byte, Bool.or_assoc]
  rw [spreadMask, step, show BitVec.getLsbD (0 : LineData) b = false from BitVec.getLsbD_zero, Bool.false_or, Bool.eq_iff_iff,
    List.any_eq_true]
  constructor
  · rintro ⟨i, -, h⟩
    simp only [Bool.and_eq_true, beq_iff_eq] at h
    exact h.2 ▸ h.1
  · exact fun h => ⟨b / 8, List.mem_range.mpr (by omega), by simp [h]⟩

/-- A bit of merged data is the request's where its byte's mask bit is 1, else the line's (R86). -/
theorem mergeData_bit (mask : ByteMask) (request line : LineData) (b : Nat) (small : b < 512) :
    (mergeData mask request line).getLsbD b = if mask.getLsbD (b / 8) then request.getLsbD b else line.getLsbD b := by
  simp only [mergeData, BitVec.getLsbD_or, BitVec.getLsbD_and, BitVec.getLsbD_not, spreadMask_bit mask b small, small]
  cases mask.getLsbD (b / 8) <;> simp

/-- The highest budget of a list, by an entry that has it and none above it (R95). -/
theorem highestBudget_eq {es : List WatchEntry} {top : WatchEntry} (mem : top ∈ es) (most : ∀ e ∈ es, e.budget ≤ top.budget) :
    highestBudget es = top.budget := by
  have bounds : ∀ (l : List WatchEntry) (m : Nat), (∀ e ∈ l, e.budget ≤ top.budget) → m ≤ top.budget →
      l.foldl (fun m e => max m e.budget) m ≤ top.budget ∧ m ≤ l.foldl (fun m e => max m e.budget) m
        ∧ ∀ e ∈ l, e.budget ≤ l.foldl (fun m e => max m e.budget) m := by
    intro l
    induction l with
    | nil => intro m _ h; exact ⟨h, le_refl _, nofun⟩
    | cons a l ih =>
      intro m hl hm
      obtain ⟨h1, h2, h3⟩ := ih (max m a.budget) (fun e he => hl e (List.mem_cons_of_mem _ he)) (max_le hm (hl a List.mem_cons_self))
      refine ⟨h1, (le_max_left _ _).trans h2, fun e he => ?_⟩
      rcases List.mem_cons.mp he with rfl | he
      · exact (le_max_right _ _).trans h2
      · exact h3 e he
  obtain ⟨h1, -, h3⟩ := bounds es 0 most (Nat.zero_le _)
  exact le_antisymm h1 (h3 top mem)

/-! ### The failed port (R138) -/

/-- The patrol stopped, a queue answered and a gate that closes on an empty queue (R138, R155). -/
theorem State.closeIfEmpty_stopped (a : State) (kept : List IrqEntry) (p : Nat) (out : List CtlMsg) :
    State.closeIfEmpty { a.stopPatrol with ctl := { a.ctl with irq := kept, p := p, out := out } } =
      { a with
        patrol := { a.patrol with state := .stopped, due := false, cancel := false, timer := none }
        ctl := { a.ctl with
          irq := kept, p := p, out := out, gate := if a.ctl.gate = .quiescing ∧ kept = [] then .closed else a.ctl.gate }
        flags := if a.ctl.gate = .quiescing ∧ kept = [] then a.flags ||| 0x0200 else a.flags } := by
  unfold State.closeIfEmpty
  by_cases h : a.ctl.gate = .quiescing ∧ kept = []
  · rw [if_pos h, if_pos h, if_pos h]
    rfl
  · rw [if_neg h, if_neg h, if_neg h]
    rfl

end Sys2Proof.Machine
end

