-- ==== Sys2Proof/Laws/PatrolChoice.lean ====
section
/-! SUPPORT. The choice of the patrol's line (R108): the search ends on the first line from the cursor up that is visible, scrubbed and
not MIGRATING; else it wraps and ends on the first from line 0 up; else it wraps twice. -/

namespace Sys2Proof.Machine

/-- The patrol may choose a line: it is visible, its stripe has SCRUB on, and its row is not MIGRATING (R108). -/
def State.choosable (s : State) (line : Nat) : Prop :=
  line < visibleCapacity s.remap.s ∧ (s.policy (rowOf line)).scrub = true ∧ s.lineMigrating line = false

/-- A bound of the moves of a search from `line` to the top: the regions and the rows of the table's entries that lie ahead, and one
move to the top. -/
def State.movesAhead (s : State) (line : Nat) : Nat :=
  (s.regions.toList.filter fun g => rowOf line < g.limit).length
    + (s.remap.table.filter fun x => line ≤ lineOf x.2.row x.2.bank 127).length
    + if line < visibleCapacity s.remap.s then 1 else 0

/-- A filter that keeps less, and not some member that the other keeps, is shorter. -/
theorem filter_length_lt {α : Type} {p q : α → Bool} {l : List α} (less : ∀ x ∈ l, p x = true → q x = true) {y : α} (mem : y ∈ l)
    (out : p y = false) (kept : q y = true) : (l.filter p).length < (l.filter q).length := by
  induction l with
  | nil => cases mem
  | cons a l ih =>
    have sub : (l.filter p).length ≤ (l.filter q).length := by
      have : l.filter p = (l.filter q).filter p := by
        rw [List.filter_filter]
        refine List.filter_congr fun x hx => ?_
        cases h : p x
        · rfl
        · simp [less x (List.mem_cons_of_mem _ hx) h]
      rw [this]
      exact List.length_filter_le _ _
    rcases List.mem_cons.mp mem with rfl | mem
    · rw [List.filter_cons_of_neg (by simp [out]), List.filter_cons_of_pos kept]
      simpa using Nat.lt_succ_of_le sub
    · have := ih (fun x hx => less x (List.mem_cons_of_mem _ hx)) mem
      cases h : p a
      · rw [List.filter_cons_of_neg (by simp [h])]
        cases h' : q a
        · rw [List.filter_cons_of_neg (by simp [h'])]; exact this
        · rw [List.filter_cons_of_pos h']; simpa using Nat.lt_succ_of_lt this
      · rw [List.filter_cons_of_pos h, List.filter_cons_of_pos (less a List.mem_cons_self h)]
        simpa using this

theorem filter_length_le {α : Type} {p q : α → Bool} {l : List α} (less : ∀ x ∈ l, p x = true → q x = true) :
    (l.filter p).length ≤ (l.filter q).length := by
  have : l.filter p = (l.filter q).filter p := by
    rw [List.filter_filter]
    refine List.filter_congr fun x hx => ?_
    cases h : p x
    · rfl
    · simp [less x hx h]
  rw [this]
  exact List.length_filter_le _ _

theorem State.movesAhead_le (s : State) (line : Nat) : s.movesAhead line ≤ s.remap.table.length + 9 := by
  unfold State.movesAhead
  have a : (s.regions.toList.filter fun g => rowOf line < g.limit).length ≤ 8 :=
    (List.length_filter_le _ _).trans (by simp)
  have b := List.length_filter_le (fun x : Nat × RemapEntry => decide (line ≤ lineOf x.2.row x.2.bank 127)) s.remap.table
  split <;> omega

/-- A move of the search: the lines passed over may not be chosen, and fewer moves are ahead. -/
structure State.Skips (s : State) (line next : Nat) : Prop where
  forward : line < next
  passed : ∀ k, line ≤ k → k < next → ¬s.choosable k
  fewer : s.movesAhead next < s.movesAhead line

variable {s : State}

theorem State.Skips.region {line : Nat} (visible : line < visibleCapacity s.remap.s)
    (off : (s.policy (rowOf line)).scrub = false) : s.Skips line (lineOf (s.regionEnd (rowOf line)) 0 0) := by
  have rowLe : ∀ {a b : Nat}, a ≤ b → rowOf a ≤ rowOf b := fun h => Nat.div_le_div_right h
  unfold State.regionEnd State.policy governing at *
  cases find : s.regions.toList.find? fun g => rowOf line < g.limit with
  | none =>
    rw [find] at off
    have top : lineOf (visibleRows s.remap.s) 0 0 = visibleCapacity s.remap.s := by simp [lineOf, visibleCapacity]; omega
    simp only [top]
    have all := List.find?_eq_none.mp find
    refine ⟨visible, fun k h1 _ hk => ?_, ?_⟩
    · have : s.regions.toList.find? (fun g => rowOf k < g.limit) = none := by
        rw [List.find?_eq_none]
        intro g hg
        have := all g hg
        have := rowLe h1
        simp at *
        omega
      have hk := hk.2.1
      simp [State.policy, governing, this, Policy.default] at hk
    · unfold State.movesAhead
      rw [if_pos visible, if_neg (lt_irrefl _)]
      have a := filter_length_le (l := s.regions.toList) (p := fun g => decide (rowOf (visibleCapacity s.remap.s) < g.limit))
        (q := fun g => decide (rowOf line < g.limit))
        (fun g _ h => by have := rowLe visible.le; simp at *; omega)
      have b := filter_length_le (l := s.remap.table)
        (p := fun x => decide (visibleCapacity s.remap.s ≤ lineOf x.2.row x.2.bank 127))
        (q := fun x => decide (line ≤ lineOf x.2.row x.2.bank 127)) (fun x _ h => by simp at *; omega)
      omega
  | some g =>
    rw [find] at off
    simp only
    have ahead : rowOf line < g.limit := by simpa using List.find?_some find
    obtain ⟨-, as, bs, split, before⟩ := List.find?_eq_some_iff_append.mp find
    have forward : line < lineOf g.limit 0 0 := by
      simp only [rowOf, lineOf] at *
      omega
    refine ⟨forward, fun k h1 h2 hk => ?_, ?_⟩
    · have inside : rowOf k < g.limit := by simp only [rowOf, lineOf] at *; omega
      have : s.regions.toList.find? (fun g => rowOf k < g.limit) = some g := by
        rw [List.find?_eq_some_iff_append]
        refine ⟨by simpa using inside, as, bs, split, fun a ha => ?_⟩
        have := before a ha
        have := rowLe h1
        simp at *
        omega
      have hk := hk.2.1
      simp [State.policy, governing, this, off] at hk
    · unfold State.movesAhead
      have here : rowOf (lineOf g.limit 0 0) = g.limit := by simp [rowOf, lineOf]
      have a := filter_length_lt (l := s.regions.toList) (p := fun g' => decide (rowOf (lineOf g.limit 0 0) < g'.limit))
        (q := fun g => decide (rowOf line < g.limit))
        (fun g' _ h => by rw [here] at h; simp at *; omega) (List.mem_of_find?_eq_some find) (by simp [here]) (by simpa using ahead)
      have b := filter_length_le (l := s.remap.table)
        (p := fun x => decide (lineOf g.limit 0 0 ≤ lineOf x.2.row x.2.bank 127))
        (q := fun x => decide (line ≤ lineOf x.2.row x.2.bank 127)) (fun x _ h => by simp at *; omega)
      have c : (if lineOf g.limit 0 0 < visibleCapacity s.remap.s then 1 else 0) ≤
          (if line < visibleCapacity s.remap.s then 1 else 0) := by rw [if_pos visible]; split <;> omega
      omega

theorem State.Skips.row {line : Nat} (migrating : s.lineMigrating line = true) :
    s.Skips line (line + (128 - columnOf line)) := by
  unfold State.lineMigrating at migrating
  cases find : s.remap.find (bankOf line) (rowOf line) with
  | none => rw [find] at migrating; cases migrating
  | some x =>
    rw [find] at migrating
    have key : x.2.bank = bankOf line ∧ x.2.row = rowOf line := by simpa using List.find?_some find
    have last : lineOf x.2.row x.2.bank 127 = line + (128 - columnOf line) - 1 := by
      rw [key.1, key.2]
      simp only [lineOf, rowOf, bankOf, columnOf]
      omega
    have forward : line < line + (128 - columnOf line) := by simp only [columnOf]; omega
    refine ⟨forward, fun k h1 h2 hk => ?_, ?_⟩
    · have same : bankOf k = bankOf line ∧ rowOf k = rowOf line := by
        simp only [bankOf, rowOf, columnOf] at *
        omega
      have hk := hk.2.2
      unfold State.lineMigrating at hk
      rw [same.1, same.2, find] at hk
      rw [hk] at migrating
      cases migrating
    · unfold State.movesAhead
      have a := filter_length_le (l := s.regions.toList) (p := fun g => decide (rowOf (line + (128 - columnOf line)) < g.limit))
        (q := fun g => decide (rowOf line < g.limit))
        (fun g _ h => by
          have : rowOf line ≤ rowOf (line + (128 - columnOf line)) := Nat.div_le_div_right forward.le
          simp at *; omega)
      have b := filter_length_lt (l := s.remap.table)
        (p := fun x => decide (line + (128 - columnOf line) ≤ lineOf x.2.row x.2.bank 127))
        (q := fun x => decide (line ≤ lineOf x.2.row x.2.bank 127)) (fun x _ h => by simp at *; omega)
        (List.mem_of_find?_eq_some find) (by simp [last]; omega) (by simp [last]; omega)
      have c : (if line + (128 - columnOf line) < visibleCapacity s.remap.s then 1 else 0) ≤
          (if line < visibleCapacity s.remap.s then 1 else 0) := by split <;> split <;> omega
      omega

/-- One move of a search whose cursor line may not be chosen, below the top. -/
theorem chooseFuel_skip (fuel : Nat) (wrapped : Bool) (visible : s.patrol.cursor < visibleCapacity s.remap.s)
    (passed : ¬s.choosable s.patrol.cursor) :
    ∃ next, s.Skips s.patrol.cursor next ∧ chooseFuel (fuel + 1) wrapped s = chooseFuel fuel wrapped (s.moveCursor next) := by
  rw [chooseFuel]
  simp only [if_neg (Nat.not_le.mpr visible)]
  by_cases off : (s.policy (rowOf s.patrol.cursor)).scrub = false
  · exact ⟨_, .region visible off, by rw [if_pos off]⟩
  · have on : (s.policy (rowOf s.patrol.cursor)).scrub = true := by simpa using off
    have migrating : s.lineMigrating s.patrol.cursor = true := by
      by_contra h
      exact passed ⟨visible, on, by simpa using h⟩
    exact ⟨_, .row migrating, by rw [if_neg off, if_pos migrating]⟩

/-- A search ends on the first line from the cursor up that may be chosen. -/
theorem chooseFuel_finds (wrapped : Bool) (line : Nat) (pass : s.choosable line) :
    ∀ (cursor fuel : Nat), cursor ≤ line → (∀ k, cursor ≤ k → k < line → ¬s.choosable k) → s.movesAhead cursor < fuel →
      chooseFuel fuel wrapped (s.moveCursor cursor) = (s.moveCursor line, true) := by
  intro cursor fuel
  induction fuel generalizing cursor with
  | zero => intro _ _ h; cases h
  | succ fuel ih =>
    intro le first enough
    by_cases here : cursor = line
    · subst here
      obtain ⟨visible, on, still⟩ := pass
      rw [chooseFuel]
      simp only [show (s.moveCursor cursor).patrol.cursor = cursor from rfl]
      rw [if_neg (show ¬visibleCapacity (s.moveCursor cursor).remap.s ≤ cursor from Nat.not_le.mpr visible),
        if_neg (show ¬((s.moveCursor cursor).policy (rowOf cursor)).scrub = false from by
          rw [show (s.moveCursor cursor).policy (rowOf cursor) = s.policy (rowOf cursor) from rfl, on]; simp),
        if_neg (show ¬(s.moveCursor cursor).lineMigrating cursor = true from by
          rw [show (s.moveCursor cursor).lineMigrating cursor = s.lineMigrating cursor from rfl, still]; simp)]
    · obtain ⟨next, skip, move⟩ := chooseFuel_skip (s := s.moveCursor cursor) fuel wrapped
        (show cursor < visibleCapacity s.remap.s from lt_of_le_of_lt le pass.1)
        (first cursor (le_refl _) (lt_of_le_of_ne le here))
      rw [move]
      have forward : cursor < next := skip.forward
      have passed : ∀ k, cursor ≤ k → k < next → ¬s.choosable k := skip.passed
      have fewer : s.movesAhead next < s.movesAhead cursor := skip.fewer
      have reach : next ≤ line := by
        by_contra beyond
        exact passed line le (Nat.lt_of_not_le beyond) pass
      exact ih next reach (fun k h => first k (by omega)) (by omega)

/-- Where the cursor wraps from does not matter. -/
theorem State.wrapCursor_moveCursor (s : State) (line : Nat) : (s.moveCursor line).wrapCursor = s.wrapCursor := by
  unfold State.wrapCursor
  by_cases h : 1 ≤ s.patrol.sweepReads
  · rw [if_pos h, if_pos (show 1 ≤ (s.moveCursor line).patrol.sweepReads from h)]
    rfl
  · rw [if_neg h, if_neg (show ¬1 ≤ (s.moveCursor line).patrol.sweepReads from h)]
    rfl

/-- A search with no line left to choose wraps. -/
theorem chooseFuel_wraps (wrapped : Bool) : ∀ (spare moves cursor : Nat), (∀ k, cursor ≤ k → ¬s.choosable k) →
    s.movesAhead cursor ≤ moves → ∃ fuel, spare ≤ fuel ∧ chooseFuel (moves + 1 + spare) wrapped (s.moveCursor cursor) =
      if wrapped then (s.wrapCursor, false) else chooseFuel fuel true s.wrapCursor := by
  intro spare moves
  induction moves generalizing spare with
  | zero =>
    intro cursor none bound
    have top : visibleCapacity s.remap.s ≤ cursor := by
      by_contra h
      have : 1 ≤ s.movesAhead cursor := by unfold State.movesAhead; rw [if_pos (Nat.lt_of_not_le h)]; omega
      omega
    refine ⟨spare, le_refl _, ?_⟩
    rw [show 0 + 1 + spare = spare + 1 by omega, chooseFuel]
    simp only [show (s.moveCursor cursor).patrol.cursor = cursor from rfl]
    rw [if_pos (show visibleCapacity (s.moveCursor cursor).remap.s ≤ cursor from top), State.wrapCursor_moveCursor]
  | succ moves ih =>
    intro cursor none bound
    by_cases top : visibleCapacity s.remap.s ≤ cursor
    · refine ⟨moves + 1 + spare, by omega, ?_⟩
      rw [show moves + 1 + 1 + spare = moves + 1 + spare + 1 by omega, chooseFuel]
      simp only [show (s.moveCursor cursor).patrol.cursor = cursor from rfl]
      rw [if_pos (show visibleCapacity (s.moveCursor cursor).remap.s ≤ cursor from top), State.wrapCursor_moveCursor]
    · obtain ⟨next, skip, move⟩ := chooseFuel_skip (s := s.moveCursor cursor) (moves + 1 + spare) wrapped
        (show cursor < visibleCapacity s.remap.s from Nat.lt_of_not_le top) (none cursor (le_refl _))
      rw [show moves + 1 + 1 + spare = moves + 1 + spare + 1 by omega, move]
      have forward : cursor < next := skip.forward
      have fewer : s.movesAhead next < s.movesAhead cursor := skip.fewer
      exact ih spare next (fun k h => none k (by omega)) (by omega)

variable (s)

/-- The wrap tests and clears sweep reads, and leaves what the choice reads. -/
theorem State.wrapCursor_choosable (k : Nat) : s.wrapCursor.choosable k ↔ s.choosable k := by
  unfold State.wrapCursor
  split <;> exact Iff.rfl

theorem State.wrapCursor_movesAhead (k : Nat) : s.wrapCursor.movesAhead k = s.movesAhead k := by
  unfold State.wrapCursor
  split <;> rfl

theorem State.wrapCursor_wrapCursor : s.wrapCursor.wrapCursor = s.wrapCursor := by
  have zero : s.wrapCursor.patrol.sweepReads = 0 := rfl
  have at0 : s.wrapCursor.patrol.cursor = 0 := rfl
  generalize s.wrapCursor = t at *
  unfold State.wrapCursor
  rw [if_neg (by omega)]
  obtain ⟨us, remap, regions, srq, engine, watch, patrol, inject, media, ctl, log, counters, flags, mask, mgmt, freeCount, pending⟩ := t
  cases patrol
  simp_all [State.setPatrol]

variable {s}

/-- The choice from the cursor up (R108). -/
theorem State.choose_ahead {line : Nat} (pass : s.choosable line) (le : s.patrol.cursor ≤ line)
    (first : ∀ k, s.patrol.cursor ≤ k → k < line → ¬s.choosable k) : s.choose = (s.moveCursor line, true) := by
  have := s.movesAhead_le s.patrol.cursor
  exact chooseFuel_finds false line pass s.patrol.cursor _ le first (by omega)

/-- The choice after one wrap (R107, R108). -/
theorem State.choose_wrapped {line : Nat} (pass : s.choosable line) (none : ∀ k, s.patrol.cursor ≤ k → ¬s.choosable k)
    (first : ∀ k, k < line → ¬s.choosable k) : s.choose = (s.wrapCursor.moveCursor line, true) := by
  have bound := s.movesAhead_le s.patrol.cursor
  obtain ⟨fuel, enough, wraps⟩ := chooseFuel_wraps false (s.remap.table.length + 22) (s.remap.table.length + 9) s.patrol.cursor none
    bound
  have moves := s.movesAhead_le 0
  rw [State.choose, show 2 * s.remap.table.length + 32 = s.remap.table.length + 9 + 1 + (s.remap.table.length + 22) by omega]
  refine wraps.trans ?_
  exact chooseFuel_finds (s := s.wrapCursor) true line ((s.wrapCursor_choosable line).mpr pass) 0 fuel (Nat.zero_le _)
    (fun k _ h => fun hk => first k h ((s.wrapCursor_choosable k).mp hk)) (by rw [s.wrapCursor_movesAhead]; omega)

/-- A double wrap: no visible line may be chosen (R108). -/
theorem State.choose_none (none : ∀ k, ¬s.choosable k) : s.choose = (s.wrapCursor, false) := by
  have bound := s.movesAhead_le s.patrol.cursor
  obtain ⟨fuel, enough, wraps⟩ := chooseFuel_wraps false (s.remap.table.length + 22) (s.remap.table.length + 9) s.patrol.cursor
    (fun k _ => none k) bound
  have moves := s.movesAhead_le 0
  rw [State.choose, show 2 * s.remap.table.length + 32 = s.remap.table.length + 9 + 1 + (s.remap.table.length + 22) by omega]
  refine wraps.trans ?_
  obtain ⟨_, _, again⟩ := chooseFuel_wraps (s := s.wrapCursor) true (fuel - (s.remap.table.length + 10)) (s.remap.table.length + 9) 0
    (fun k _ hk => none k ((s.wrapCursor_choosable k).mp hk)) (by rw [s.wrapCursor_movesAhead]; omega)
  rw [show s.remap.table.length + 9 + 1 + (fuel - (s.remap.table.length + 10)) = fuel by omega, s.wrapCursor_wrapCursor] at again
  exact again

end Sys2Proof.Machine
end

