-- ==== Sys2Proof/Laws/PortChanges.lean ====
section
/-! SUPPORT. Every step changes the controller port through a chain of the changes of `CtlStep`, so a law of the port that each of
them keeps is kept by every step. -/

namespace Sys2Proof.Machine

/-- The changes that any operation makes to the controller port; the messages sent are left open. -/
inductive CtlStep : Ctl → Ctl → Prop
  /-- A message placed on the link. -/
  | out (c : Ctl) (o : List CtlMsg) : CtlStep c { c with out := o }
  /-- The entry of a tag retires (R153). -/
  | retire (c : Ctl) (tag : Tag) (o : List CtlMsg) : (c.irq.any fun e => e.tag == tag) = true →
      CtlStep c { c with irq := c.irq.eraseP (fun e => e.tag == tag), p := c.p + 1, out := o }
  /-- A pass over the queue answers some of its entries (R85, R154). -/
  | pass (c : Ctl) (answers : IrqEntry → Option CtlMsg) (o : List CtlMsg) :
      CtlStep c { c with irq := (answerPass answers [] c.irq).1, p := c.p + (answerPass answers [] c.irq).2.length, out := o }
  /-- The gate closes on an empty queue (R155). -/
  | close (c : Ctl) : c.irq = [] → CtlStep c { c with gate := .closed }
  /-- The gate enters OPEN or QUIESCING (R155). -/
  | gate (c : Ctl) (g : Gate) : g ≠ .closed → CtlStep c { c with gate := g }
  /-- A request refused or discarded: its credit becomes pending (R146, R147). -/
  | refuse (c : Ctl) : 1 ≤ c.g → CtlStep c { c with g := c.g - 1, p := c.p + 1 }
  /-- A request accepted (R148). -/
  | accept (c : Ctl) (e : IrqEntry) : 1 ≤ c.g → c.gate = .opened → (∀ x ∈ c.irq, x.tag ≠ e.tag) →
      e.state.isIssued = false → CtlStep c { c with g := c.g - 1, irq := c.irq ++ [e] }
  /-- Entries held or released (R58, R59). -/
  | restate (c : Ctl) (f : IrqEntry → IrqEntry) :
      (∀ e, (f e).tag = e.tag ∧ (f e).line = e.line ∧ (f e).state.isIssued = e.state.isIssued) →
      CtlStep c { c with irq := c.irq.map f }
  /-- An entry without an older entry of its line is ISSUED (R132, R150). -/
  | issue (c : Ctl) (older : List IrqEntry) (e : IrqEntry) (younger : List IrqEntry) (i : SlotNo) :
      c.irq = older ++ e :: younger → (∀ x ∈ older, x.line ≠ e.line) →
      CtlStep c { c with irq := c.irq.map fun x => if x.tag = e.tag then { x with state := .issued i } else x }
  /-- Pending credits sent (R143). -/
  | credit (c : Ctl) (o : List CtlMsg) : CtlStep c { c with g := c.g + c.p, p := 0, out := o }
  /-- A link reset, or with the gate CLOSED a cold reset (R158). -/
  | reset (c : Ctl) (gate : Gate) (up : Bool) (o : List CtlMsg) :
      CtlStep c { linkUp := up, gate := gate, g := 32, p := 0, irq := [], out := o }
  /-- A warm reset (R159). -/
  | warm (c : Ctl) (o : List CtlMsg) : CtlStep c { c with gate := .closed, irq := [], p := c.p + c.irq.length, out := o }
  /-- The link comes up (R158). -/
  | up (c : Ctl) : CtlStep c { c with linkUp := true }

/-- A chain of such changes. -/
abbrev CtlReach : Ctl → Ctl → Prop := Relation.ReflTransGen CtlStep

variable {a : Ctl} {s : State}

/-! ### The controller port's own operations -/

theorem send_ctl (m : CtlMsg) (h : CtlReach a s.ctl) : CtlReach a (s.send m).ctl := h.tail (.out _ _)

theorem setEntryState_ctl {older younger : List IrqEntry} {e : IrqEntry} (i : SlotNo) (hq : s.ctl.irq = older ++ e :: younger)
    (hl : ∀ x ∈ older, x.line ≠ e.line) (h : CtlReach a s.ctl) : CtlReach a (s.setEntryState e.tag (.issued i)).ctl :=
  h.tail (.issue _ older e younger i hq hl)

theorem releaseHeld_ctl (which : Nat → Bool) (h : CtlReach a s.ctl) : CtlReach a (s.releaseHeld which).ctl := by
  refine h.tail (.restate _ _ fun e => ?_)
  split
  · rename_i hs
    simp [hs.1, IrqState.isIssued]
  · simp

theorem holdLine_ctl (line : Nat) (h : CtlReach a s.ctl) : CtlReach a (s.holdLine line).ctl := by
  refine h.tail (.restate _ _ fun e => ?_)
  split
  · rename_i hs
    simp [hs.1, IrqState.isIssued]
  · simp

theorem closeIfEmpty_ctl (h : CtlReach a s.ctl) : CtlReach a s.closeIfEmpty.ctl := by
  unfold State.closeIfEmpty
  split
  · rename_i hq
    simpa using h.tail (.close _ hq.2)
  · exact h

theorem runPass_ctl (answers : IrqEntry → Option CtlMsg) (h : CtlReach a s.ctl) : CtlReach a (s.runPass answers).ctl :=
  h.tail (.pass _ answers _)

theorem answerFailed_ctl (h : CtlReach a s.ctl) : CtlReach a s.answerFailed.ctl := by
  unfold State.answerFailed
  split
  · exact runPass_ctl _ h
  · exact h

theorem retire_ctl (tag : Tag) (m : CtlMsg) (h : CtlReach a s.ctl) : CtlReach a (s.retire tag m).ctl := by
  unfold State.retire
  split
  · rename_i ht
    exact closeIfEmpty_ctl (answerFailed_ctl (h.tail (.retire _ tag _ ht)))
  · exact h

theorem answerZeroMerges_ctl (h : CtlReach a s.ctl) : CtlReach a s.answerZeroMerges.ctl := by
  unfold State.answerZeroMerges
  split
  · exact closeIfEmpty_ctl (runPass_ctl _ h)
  · exact h

theorem sendCredit_ctl (h : CtlReach a s.ctl) : CtlReach a s.sendCredit.ctl := by
  unfold State.sendCredit
  split
  · exact h
  · exact h.tail (.credit _ _)

theorem endWithAnswer_ctl (i : SlotNo) (tag : Tag) (m : CtlMsg) (h : CtlReach a s.ctl) :
    CtlReach a (s.endWithAnswer i tag m).ctl := retire_ctl _ _ (by simpa using h)

/-! ### Migrations release HELD entries -/

theorem abort_ctl (y : AbortReason) (h : CtlReach a s.ctl) : CtlReach a (s.abort y).ctl := by
  unfold State.abort
  split
  · exact h
  · simpa using releaseHeld_ctl _ (s := (s.orphanCopy).revert _ _ y) (by simpa using h)

theorem restart_ctl (c : EngineCtx) (e : RemapEntry) (k : Nat) (h : CtlReach a s.ctl) : CtlReach a (s.restart c e k).ctl := by
  unfold State.restart
  simp only [State.count_frame, State.offerRow_frame]
  exact releaseHeld_ctl _ (by simpa using h)

theorem destinationFailure_ctl (h : CtlReach a s.ctl) : CtlReach a s.destinationFailure.ctl := by
  unfold State.destinationFailure
  repeat' split
  · exact h
  · simpa using abort_ctl _ h
  · simpa using abort_ctl _ h
  · exact restart_ctl _ _ _ h

theorem dispatch_ctl (f : ReadFacts) (h : CtlReach a s.ctl) : CtlReach a (s.dispatch f).ctl := by
  have failed : ∀ s : State, CtlReach a s.ctl → CtlReach a (s.failedDestinationRead f).ctl := by
    intro s h
    unfold State.failedDestinationRead
    dsimp only
    repeat' split
    all_goals first | exact h | exact destinationFailure_ctl h | simpa using h
  have exhausted : ∀ (s : State) (b r : Nat), CtlReach a s.ctl → CtlReach a (s.dispatchExhaustion b r).ctl := by
    intro s b r h
    unfold State.dispatchExhaustion
    repeat' split
    all_goals first | exact h | exact destinationFailure_ctl h | simpa using h
  unfold State.dispatch
  split
  · exact h
  · simpa using h
  · unfold State.dispatchCorrected
    dsimp only
    repeat' split
    all_goals first | (refine exhausted _ _ _ ?_; simpa using h) | simpa using h
  · unfold State.ueOffer
    repeat' split
    all_goals first | (refine failed _ ?_; simpa using h) | simpa using h

/-! ### Completions and timeouts -/

theorem ownUpstreamRead_ctl (i : SlotNo) (w : Work) (e : IrqEntry) (x y : ReadOutcome) (d : LineData) (h : CtlReach a s.ctl) :
    CtlReach a (s.ownUpstreamRead i w e x y d).ctl := by
  unfold State.ownUpstreamRead
  repeat' split
  all_goals first | exact endWithAnswer_ctl _ _ _ h | simpa using h

theorem upstreamRead_ctl (i : SlotNo) (w : Work) (tag : Tag) (attached : Bool) (o : Origin) (x y : ReadOutcome) (d : LineData)
    (h : CtlReach a s.ctl) : CtlReach a (s.upstreamRead i w tag attached o x y d).ctl := by
  unfold State.upstreamRead
  dsimp only
  split
  · simpa using dispatch_ctl _ h
  · exact ownUpstreamRead_ctl _ _ _ _ _ _ (dispatch_ctl _ h)

theorem copyRead_ctl (w : Work) (x y : ReadOutcome) (d : LineData) (h : CtlReach a s.ctl) :
    CtlReach a (s.copyRead w x y d).ctl := by
  unfold State.copyRead
  dsimp only
  repeat' split
  all_goals simpa using dispatch_ctl _ h

theorem patrolRead_ctl (w : Work) (x y : ReadOutcome) (d : LineData) (h : CtlReach a s.ctl) :
    CtlReach a (s.patrolRead w x y d).ctl := by
  unfold State.patrolRead
  dsimp only
  split
  all_goals simpa using dispatch_ctl _ h

theorem acceptRead_ctl (i : SlotNo) (w : Work) (l : StoredLine) (h : CtlReach a s.ctl) :
    CtlReach a (s.acceptRead i w l).ctl := by
  unfold State.acceptRead
  dsimp only
  repeat' split
  · simpa using h
  · exact upstreamRead_ctl _ _ _ _ _ _ _ _ (by simpa using h)
  · exact copyRead_ctl _ _ _ _ (by simpa using h)
  · exact patrolRead_ctl _ _ _ _ (by simpa using h)

theorem copyWritten_ctl (h : CtlReach a s.ctl) : CtlReach a s.copyWritten.ctl := by
  unfold State.copyWritten
  dsimp only
  repeat' split
  · simpa using h
  · simp only [State.engineTake_frame, State.commit_frame]
    exact releaseHeld_ctl _ (by simpa using h)
  · exact releaseHeld_ctl _ (by simpa using h)
  · simpa using h

theorem acceptWrite_ctl (i : SlotNo) (w : Work) (l : Bool) (h : CtlReach a s.ctl) :
    CtlReach a (s.acceptWrite i w l).ctl := by
  unfold State.acceptWrite State.writeEnded
  dsimp only
  repeat' split
  all_goals first | exact endWithAnswer_ctl _ _ _ (by simpa using h) | exact copyWritten_ctl (by simpa using h) | simpa using h

theorem enterFailed_ctl (i : SlotNo) (h : CtlReach a s.ctl) : CtlReach a (s.enterFailed i).ctl := by
  unfold State.enterFailed
  dsimp only
  refine closeIfEmpty_ctl (answerFailed_ctl ?_)
  split
  · simpa using abort_ctl _ (by simpa using h)
  · simpa using h

theorem timeout_ctl (i : SlotNo) (w : Work) (h : CtlReach a s.ctl) : CtlReach a (s.timeout i w).ctl := by
  have tell : ∀ s : State, CtlReach a s.ctl → CtlReach a (s.tellTimeout w).ctl := by
    intro s h
    unfold State.tellTimeout
    repeat' split
    all_goals first | exact h | exact retire_ctl _ _ h | exact abort_ctl _ h | simpa using h
  unfold State.timeout
  simp only [State.afterTimeout_frame]
  split
  · exact enterFailed_ctl _ (tell _ (by simpa using h))
  · exact tell _ (by simpa using h)

/-! ### Arrival and grant -/

theorem entryOfTag_eq_none {tag : Tag} (h : (s.entryOfTag tag).isSome = false) : ∀ x ∈ s.ctl.irq, x.tag ≠ tag := by
  simpa [State.entryOfTag] using h

theorem arrive_ctl (t : Byte) (l : LineAddr) (k : RequestKind) (h : CtlReach a s.ctl) :
    CtlReach a (s.arrive t l k).ctl := by
  unfold State.arrive
  dsimp only
  split
  · exact h
  split
  · simpa using h
  rename_i hg
  have hg : 1 ≤ s.ctl.g := by omega
  have refused : CtlReach a s.returnCredit.ctl := h.tail (.refuse _ hg)
  split
  · simpa using refused
  rename_i ht
  split
  · simpa [State.refuseArrival] using send_ctl _ refused
  rename_i ho
  split
  · exact send_ctl _ refused
  split
  · simpa [State.refuseArrival] using send_ctl _ refused
  · unfold State.acceptRequest
    refine answerZeroMerges_ctl ?_
    rw [(State.markCancel_frame _ _ _).2.2.2.2.2.2.2.2.1]
    refine h.tail (.accept _ _ hg (by simpa using ho) (entryOfTag_eq_none (by simpa using ht)) ?_)
    dsimp only
    split <;> rfl

/-- What `oldestEligible` answers: an entry of the queue that no older entry of its line precedes (R132, R150). -/
theorem oldestEligible_spec {lines : List Nat} {q : List IrqEntry} {e : IrqEntry} (h : s.oldestEligible lines q = some e) :
    ∃ older younger, q = older ++ e :: younger ∧ (∀ x ∈ older, x.line ≠ e.line) ∧ e.line ∉ lines ∧ e.state = .waiting
      ∧ e.kind.isZeroMerge = false ∧ s.lineFree e = true := by
  induction q generalizing lines with
  | nil => simp [State.oldestEligible] at h
  | cons x xs ih =>
    unfold State.oldestEligible at h
    split at h
    · rename_i hx
      obtain rfl := Option.some.inj h
      exact ⟨[], xs, rfl, by simp, by simpa using hx.2.2.1, hx.1, by simpa using hx.2.1, hx.2.2.2⟩
    · obtain ⟨older, younger, rfl, h1, h2, h3⟩ := ih h
      refine ⟨x :: older, younger, rfl, ?_, fun hm => h2 (List.mem_cons_of_mem _ hm), h3⟩
      intro y hy
      rcases List.mem_cons.1 hy with rfl | hy
      · exact fun e => h2 (e ▸ List.mem_cons_self)
      · exact h1 _ hy

/-! ### Every step -/

theorem runCommand_ctl {code : Byte} {take : Params → State → State} (h : CtlReach a s.ctl)
    (taking : ∀ p (s : State), CtlReach a s.ctl → CtlReach a (take p s).ctl) : CtlReach a (s.runCommand code take).ctl :=
  runCommand_keeps (P := fun s => CtlReach a s.ctl) (fun _ _ h => h) (fun _ _ h => h) taking h

theorem runPatrol_ctl {op : Byte} {take : Params → State → State} (h : CtlReach a s.ctl)
    (taking : ∀ p (s : State), (take p s).ctl = s.ctl) : CtlReach a (s.runPatrol op take).ctl := by
  refine runCommand_ctl h fun p s h => ?_
  repeat' split
  · rwa [taking]
  · exact h
  · simpa using h

/-- A command's changes to the controller port are a chain of the changes of `CtlStep`. -/
theorem exec_ctl {c : Instr} {t : State} (h : exec c s = .next t) : CtlReach s.ctl t.ctl := by
  have r : CtlReach s.ctl s.ctl := .refl
  have kept : ∀ {code : Byte} {take : Params → State → State}, (∀ p (s : State), (take p s).ctl = s.ctl) →
      Host.Outcome.next (s.runCommand code take) = (.next t : Host.Outcome State Fault Refusal) → CtlReach s.ctl t.ctl := by
    intro code take hk h
    obtain rfl := Host.Outcome.next.inj h
    exact runCommand_ctl r fun p s h => by rwa [hk]
  have patrol : ∀ {op : Byte} {take : Params → State → State}, (∀ p (s : State), (take p s).ctl = s.ctl) →
      Host.Outcome.next (s.runPatrol op take) = (.next t : Host.Outcome State Fault Refusal) → CtlReach s.ctl t.ctl := by
    intro op take hk h
    obtain rfl := Host.Outcome.next.inj h
    exact runPatrol_ctl r hk
  cases c <;> dsimp only [exec] at h
  case coldReset => obtain rfl := Host.Outcome.next.inj h; exact r.tail (.reset _ _ _ _)
  case linkReset =>
    obtain rfl := Host.Outcome.next.inj h
    refine closeIfEmpty_ctl (r.tail ?_)
    simpa [Config.credits] using CtlStep.reset s.ctl s.ctl.gate false []
  case lineRead => obtain rfl := Host.Outcome.next.inj h; exact arrive_ctl _ _ _ r
  case lineWrite => obtain rfl := Host.Outcome.next.inj h; exact arrive_ctl _ _ _ r
  case lineMerge => obtain rfl := Host.Outcome.next.inj h; exact arrive_ctl _ _ _ r
  case unknownMessageType => obtain rfl := Host.Outcome.next.inj h; exact r
  case credit => obtain rfl := Host.Outcome.next.inj h; exact sendCredit_ctl r
  case readCompletion =>
    rcases execReadCompletion_cases _ _ _ _ s with e | ⟨w, -, e⟩ <;> rw [e] at h <;> obtain rfl := Host.Outcome.next.inj h
    · simpa using r
    · exact acceptRead_ctl _ _ _ r
  case writeCompletion =>
    rcases execWriteCompletion_cases _ _ _ s with e | ⟨w, -, e⟩ <;> rw [e] at h <;> obtain rfl := Host.Outcome.next.inj h
    · simpa using r
    · exact acceptWrite_ctl _ _ _ r
  case mediaTimeout =>
    unfold execMediaTimeout at h
    split at h <;> obtain rfl := Host.Outcome.next.inj h
    · exact r
    · exact timeout_ctl _ _ r
  case drainExpiry => unfold execDrainExpiry at h; split at h <;> obtain rfl := Host.Outcome.next.inj h <;> simpa using r
  case decayExpiry => unfold execDecayExpiry at h; split at h <;> obtain rfl := Host.Outcome.next.inj h <;> simpa using r
  case intervalExpiry =>
    unfold execIntervalExpiry at h
    split at h
    · obtain rfl := Host.Outcome.next.inj h
      exact r
    · dsimp only at h
      split at h <;> obtain rfl := Host.Outcome.next.inj h <;> simpa using r
  case slotGrant =>
    have q : CtlReach s.ctl s.answerZeroMerges.ctl := answerZeroMerges_ctl r
    unfold execSlotGrant at h
    dsimp only at h
    repeat' split at h
    all_goals obtain rfl := Host.Outcome.next.inj h
    · rename_i he
      obtain ⟨older, younger, hq, hl, -⟩ := oldestEligible_spec he
      exact setEntryState_ctl _ (by simpa using hq) hl (by simpa using q)
    · exact q
    · exact q
  case copyReadIssue =>
    unfold execCopyReadIssue at h
    repeat' split at h
    all_goals obtain rfl := Host.Outcome.next.inj h
    · exact r
    · exact holdLine_ctl _ (by simpa using r)
    · exact r
  case patrolReadIssue => obtain rfl := Host.Outcome.next.inj h; simpa using r
  case openGate =>
    obtain rfl := Host.Outcome.next.inj h
    refine runCommand_ctl r fun p s h => ?_
    unfold State.openGate
    split
    · exact h.tail (.gate _ _ (by decide))
    · exact h
    · exact h
  case closeGate =>
    obtain rfl := Host.Outcome.next.inj h
    refine runCommand_ctl r fun p s h => ?_
    unfold State.closeGate
    split
    · simpa using closeIfEmpty_ctl (h.tail (.gate _ .quiescing (by decide)))
    · exact h
    · exact h
  case warmReset =>
    obtain rfl := Host.Outcome.next.inj h
    refine runCommand_ctl r fun p s h => ?_
    have w : CtlReach s.ctl s.warmController.ctl := sendCredit_ctl (Relation.ReflTransGen.refl.tail (.warm _ _))
    unfold State.warmReset State.warmEngine
    refine h.trans ?_
    split
    · simpa using abort_ctl _ w
    · simpa using w
  case abortMigration =>
    obtain rfl := Host.Outcome.next.inj h
    refine runCommand_ctl r fun p s h => ?_
    unfold State.abortMigration
    split
    · simpa using h
    · simpa using abort_ctl _ h
  case start | stop | setInterval | setCursor => exact patrol (by simp) h
  case linkUp => obtain rfl := Host.Outcome.next.inj h; exact r.tail (.up _)
  case unknownCommand | commandOverrun | eventFlagWrite => obtain rfl := Host.Outcome.next.inj h; simpa using r
  case pointerWrite => unfold execPointerWrite at h; split at h <;> obtain rfl := Host.Outcome.next.inj h <;> exact r
  case registerWrite => unfold execRegisterWrite at h; split at h <;> obtain rfl := Host.Outcome.next.inj h <;> simpa using r
  case registerRead => unfold execRegisterRead at h; split at h <;> obtain rfl := Host.Outcome.next.inj h <;> exact r
  case addressByte => unfold execAddressByte at h; split at h <;> obtain rfl := Host.Outcome.next.inj h <;> exact r
  all_goals exact kept (by simp) h

end Sys2Proof.Machine
end

