-- ==== Sys2Proof/Laws/ReportChanges.lean ====
section
/-! SUPPORT. Every step changes the fault log and the counters through a chain of the changes of `ReportStep`, so a law of the log
or of the counters that each of them keeps is kept by every step. -/

namespace Sys2Proof.Machine

/-- The fault log and the counters together: a full log counts the record it drops (R162). -/
abbrev Reports := Log × Vector Nat 18

/-- The changes that any operation makes to the fault log and the counters. -/
inductive ReportStep : Reports → Reports → Prop
  /-- A record stored with the next sequence number (R162). -/
  | store (l : Log) (v : Vector Nat 18) (o : Offer) : l.records.length < 32 →
      ReportStep (l, v) ({ records := l.records ++ [{ seq := l.nextSeq, body := o }], nextSeq := l.nextSeq + 1 }, v)
  /-- A counter's event (R166). -/
  | count (l : Log) (v : Vector Nat 18) (k : Fin 18) : ReportStep (l, v) (l, v.set k (min (v[k] + 1) 65535))
  /-- The head record popped (R164). -/
  | pop (l : Log) (v : Vector Nat 18) (r : FaultRecord) (rest : List FaultRecord) : l.records = r :: rest →
      ReportStep (l, v) ({ l with records := rest }, v)
  /-- Some counters cleared (R167). -/
  | clear (l : Log) (v d : Vector Nat 18) : (∀ k : Fin 18, d[k] = 0 ∨ d[k] = v[k]) → ReportStep (l, v) (l, d)
  /-- A cold reset (R165, R166). -/
  | reset (x : Reports) : ReportStep x ({ records := [], nextSeq := 0 }, Vector.replicate 18 0)

/-- A chain of such changes. -/
abbrev ReportReach : Reports → Reports → Prop := Relation.ReflTransGen ReportStep

variable {a : Reports} {s : State}

/-! ### Reporting -/

theorem count_reports (k : Counter) (h : ReportReach a (s.log, s.counters)) :
    ReportReach a ((s.count k).log, (s.count k).counters) := h.tail (.count _ _ k.index)

theorem offerRecord_reports (o : Offer) (h : ReportReach a (s.log, s.counters)) :
    ReportReach a ((s.offerRecord o).log, (s.offerRecord o).counters) := by
  unfold State.offerRecord
  split
  · rename_i hl
    exact h.tail (.store _ _ o hl)
  · exact h.tail (.count _ _ (Counter.index .logLost))

theorem wrapCursor_reports (h : ReportReach a (s.log, s.counters)) :
    ReportReach a (s.wrapCursor.log, s.wrapCursor.counters) := by
  unfold State.wrapCursor
  split
  · exact count_reports .sweeps h
  · exact h

theorem charge_reports (b r l : Nat) (h : ReportReach a (s.log, s.counters)) :
    ReportReach a ((s.charge b r l).1.log, (s.charge b r l).1.counters) := by
  unfold State.charge
  dsimp only
  repeat' split
  all_goals first | exact h | exact count_reports _ h

/-! ### Sparing and migration -/

theorem engineTakeFuel_reports (n : Nat) (h : ReportReach a (s.log, s.counters)) :
    ReportReach a ((engineTakeFuel n s).log, (engineTakeFuel n s).counters) := by
  induction n generalizing s with
  | zero => exact h
  | succ n ih =>
    unfold engineTakeFuel
    repeat' split
    · exact h
    · exact ih (count_reports .sparesRefused (offerRecord_reports _ h))
    · unfold State.startMigration
      refine offerRecord_reports _ ?_
      dsimp only
      simp only [State.assignSpare_frame]
      split <;> simpa using h
    · exact h

theorem engineTake_reports (h : ReportReach a (s.log, s.counters)) :
    ReportReach a (s.engineTake.log, s.engineTake.counters) := engineTakeFuel_reports _ h

theorem offerSparing_reports (b r : Nat) (c : SpareCause) (h : ReportReach a (s.log, s.counters)) :
    ReportReach a ((s.offerSparing b r c).log, (s.offerSparing b r c).counters) := by
  unfold State.offerSparing
  split
  · exact h
  · exact h
  · exact count_reports _ (offerRecord_reports _ h)
  · exact engineTake_reports h

theorem commit_reports (h : ReportReach a (s.log, s.counters)) : ReportReach a (s.commit.log, s.commit.counters) := by
  unfold State.commit
  split
  · exact h
  · refine count_reports (s := State.setFlag _ .spareDone) _ (offerRecord_reports _ ?_)
    split <;> simpa using h

theorem abort_reports (y : AbortReason) (h : ReportReach a (s.log, s.counters)) :
    ReportReach a ((s.abort y).log, (s.abort y).counters) := by
  unfold State.abort
  split
  · exact h
  · exact offerRecord_reports _ (by simpa using h)

theorem restart_reports (c : EngineCtx) (e : RemapEntry) (k : Nat) (h : ReportReach a (s.log, s.counters)) :
    ReportReach a ((s.restart c e k).log, (s.restart c e k).counters) := by
  unfold State.restart
  exact count_reports _ (offerRecord_reports _ (by simpa using h))

theorem destinationFailure_reports (h : ReportReach a (s.log, s.counters)) :
    ReportReach a (s.destinationFailure.log, s.destinationFailure.counters) := by
  unfold State.destinationFailure
  repeat' split
  · exact h
  · exact engineTake_reports (abort_reports _ h)
  · exact engineTake_reports (abort_reports _ h)
  · exact restart_reports _ _ _ h

/-! ### Dispatch of a read -/

theorem dispatch_reports (f : ReadFacts) (h : ReportReach a (s.log, s.counters)) :
    ReportReach a ((s.dispatch f).log, (s.dispatch f).counters) := by
  have failed : ∀ s : State, ReportReach a (s.log, s.counters) →
      ReportReach a ((s.failedDestinationRead f).log, (s.failedDestinationRead f).counters) := by
    intro s h
    unfold State.failedDestinationRead
    dsimp only
    repeat' split
    all_goals first | exact h | exact destinationFailure_reports h | exact offerSparing_reports _ _ _ h
  have exhausted : ∀ (s : State) (b r : Nat), ReportReach a (s.log, s.counters) →
      ReportReach a ((s.dispatchExhaustion b r).log, (s.dispatchExhaustion b r).counters) := by
    intro s b r h
    unfold State.dispatchExhaustion
    repeat' split
    all_goals first | exact h | exact destinationFailure_reports h | exact offerSparing_reports _ _ _ h
  unfold State.dispatch
  split
  · exact h
  · exact count_reports _ h
  · have charged := charge_reports f.addr.bank f.addr.row (rowOf f.line) (count_reports .ceTotal h)
    unfold State.dispatchCorrected
    dsimp only
    repeat' split
    · exact offerRecord_reports _ charged
    · exact charged
    · exact exhausted _ _ _ (offerRecord_reports _ (offerRecord_reports _ charged))
    · exact exhausted _ _ _ (offerRecord_reports _ charged)
  · have ue := offerRecord_reports (s := s.count .ueTotal)
      { kind := ueKind f.origin, time := s.now, origin := f.origin, injected := f.injected, line := some f.line,
        phys := some f.phys, slot := s.slotOfLine f.line, detail := f.detail } (count_reports .ueTotal h)
    unfold State.ueOffer
    repeat' split
    · exact ue
    · exact failed _ ue
    · exact offerSparing_reports _ _ _ ue
    · exact ue

/-! ### The patrol -/

theorem chooseFuel_reports (n : Nat) (w : Bool) (h : ReportReach a (s.log, s.counters)) :
    ReportReach a ((chooseFuel n w s).1.log, (chooseFuel n w s).1.counters) := by
  induction n generalizing w s with
  | zero => exact wrapCursor_reports h
  | succ n ih =>
    unfold chooseFuel
    dsimp only
    repeat' split
    · exact wrapCursor_reports h
    · exact ih _ (wrapCursor_reports h)
    · exact ih _ h
    · exact ih _ h
    · exact h

theorem patrolAttempt_reports (h : ReportReach a (s.log, s.counters)) :
    ReportReach a (s.patrolAttempt.log, s.patrolAttempt.counters) := by
  have c := chooseFuel_reports (2 * s.remap.table.length + 32) false h
  unfold State.patrolAttempt
  dsimp only
  repeat' split
  · simp only [State.issuePatrolRead_frame]
    exact c
  · exact c
  · exact c
  · exact h

theorem endPatrolStep_reports (h : ReportReach a (s.log, s.counters)) :
    ReportReach a (s.endPatrolStep.log, s.endPatrolStep.counters) := by
  have advanced : ReportReach a (s.advanceCursor.log, s.advanceCursor.counters) := by
    unfold State.advanceCursor
    split
    · exact wrapCursor_reports h
    · exact h
  unfold State.endPatrolStep
  split
  all_goals first | exact advanced | exact h

theorem finishPatrolStep_reports (h : ReportReach a (s.log, s.counters)) :
    ReportReach a (s.finishPatrolStep.log, s.finishPatrolStep.counters) :=
  patrolAttempt_reports (endPatrolStep_reports h)

/-! ### Completions and timeouts -/

theorem lateCompletion_reports (i : SlotNo) (ep : Epoch) (l : Bool) (h : ReportReach a (s.log, s.counters)) :
    ReportReach a ((s.lateCompletion i ep l).log, (s.lateCompletion i ep l).counters) := by
  have c := count_reports .lateCompletions h
  unfold State.lateCompletion
  dsimp only
  repeat' split
  all_goals exact c

theorem acceptRead_reports (i : SlotNo) (w : Work) (l : StoredLine) (h : ReportReach a (s.log, s.counters)) :
    ReportReach a ((s.acceptRead i w l).log, (s.acceptRead i w l).counters) := by
  unfold State.acceptRead
  dsimp only
  repeat' split
  · exact h
  · unfold State.upstreamRead
    have d : ∀ (s : State) (f : ReadFacts), ReportReach a (s.log, s.counters) →
        ReportReach a ((s.dispatch f).log, (s.dispatch f).counters) := fun s f h => dispatch_reports f h
    dsimp only
    split
    · exact d _ _ (by simpa using h)
    · simpa using d _ _ (by simpa using h)
  · have d : ∀ (s : State) (f : ReadFacts), ReportReach a (s.log, s.counters) →
        ReportReach a ((s.dispatch f).log, (s.dispatch f).counters) := fun s f h => dispatch_reports f h
    unfold State.copyRead
    dsimp only
    repeat' split
    · exact d _ _ (by simpa using h)
    · simpa using d _ _ (by simpa using h)
    · simpa using d _ _ (by simpa using h)
    · exact d _ _ (by simpa using h)
  · have own : ∀ (s : State) (x : ReadOutcome) (d : LineData), ReportReach a (s.log, s.counters) →
        ReportReach a ((s.ownPatrolRead w x d).log, (s.ownPatrolRead w x d).counters) := by
      intro s x d h
      unfold State.ownPatrolRead
      dsimp only
      repeat' split
      · exact finishPatrolStep_reports h
      · exact finishPatrolStep_reports (count_reports _ h)
      · have issued : ∀ s : State, ReportReach a (s.log, s.counters) → ∀ p,
            ReportReach a (((s.count .scrubWritebacks).setPatrol p).log, ((s.count .scrubWritebacks).setPatrol p).counters) :=
          fun s h p => count_reports _ h
        exact issued _ (by simpa using h) _
    unfold State.patrolRead
    dsimp only
    split
    · exact own _ _ _ (dispatch_reports _ (by simpa using h))
    · exact own _ _ _ (dispatch_reports _ (by simpa using h))
    all_goals exact dispatch_reports _ (by simpa using h)

theorem writeEnded_reports (i : SlotNo) (w : Work) (h : ReportReach a (s.log, s.counters)) :
    ReportReach a ((s.writeEnded i w).log, (s.writeEnded i w).counters) := by
  unfold State.writeEnded
  repeat' split
  · exact h
  · simpa using h
  · exact h
  · unfold State.copyWritten
    dsimp only
    repeat' split
    · exact h
    · exact engineTake_reports (commit_reports h)
    · exact h
    · exact h
  · unfold State.patrolWritten
    split
    all_goals first | exact finishPatrolStep_reports h | exact h

theorem acceptWrite_reports (i : SlotNo) (w : Work) (l : Bool) (h : ReportReach a (s.log, s.counters)) :
    ReportReach a ((s.acceptWrite i w l).log, (s.acceptWrite i w l).counters) := by
  unfold State.acceptWrite
  dsimp only
  generalize (if l = true then ({ w with leg1 := false } : Work) else { w with leg0 := false }) = w'
  split
  · exact h
  · exact writeEnded_reports _ _ h

theorem timeout_reports (i : SlotNo) (w : Work) (h : ReportReach a (s.log, s.counters)) :
    ReportReach a ((s.timeout i w).log, (s.timeout i w).counters) := by
  have tell : ∀ s : State, ReportReach a (s.log, s.counters) →
      ReportReach a ((s.tellTimeout w).log, (s.tellTimeout w).counters) := by
    intro s h
    unfold State.tellTimeout
    repeat' split
    all_goals first | exact h | exact abort_reports _ h | exact endPatrolStep_reports h | simpa using h
  have failed : ∀ s : State, ReportReach a (s.log, s.counters) →
      ReportReach a ((s.enterFailed i).log, (s.enterFailed i).counters) := by
    intro s h
    unfold State.enterFailed
    dsimp only
    simp only [State.closeIfEmpty_frame, State.answerFailed_frame, State.stopPatrol_frame]
    split
    · exact abort_reports _ (offerRecord_reports _ h)
    · exact offerRecord_reports _ h
  have after : ∀ s : State, ReportReach a (s.log, s.counters) →
      ReportReach a ((s.afterTimeout w).log, (s.afterTimeout w).counters) := by
    intro s h
    unfold State.afterTimeout
    repeat' split
    all_goals first | exact h | exact engineTake_reports h | exact patrolAttempt_reports h
  unfold State.timeout
  refine after _ ?_
  dsimp only
  split
  · exact failed _ (tell _ (offerRecord_reports _ (count_reports .mediaTimeouts h)))
  · exact tell _ (offerRecord_reports _ (count_reports .mediaTimeouts h))

/-! ### Arrival -/

theorem arrive_reports (t : Byte) (l : LineAddr) (k : RequestKind) (h : ReportReach a (s.log, s.counters)) :
    ReportReach a ((s.arrive t l k).log, (s.arrive t l k).counters) := by
  unfold State.arrive
  dsimp only
  repeat' split
  · exact h
  · exact count_reports _ h
  · exact offerRecord_reports _ (count_reports .protocolErrors h)
  · exact count_reports _ h
  · exact h
  · exact offerRecord_reports _ h
  · simpa using h

/-! ### Every step -/

theorem runCommand_reports {code : Byte} {take : Params → State → State} (h : ReportReach a (s.log, s.counters))
    (taking : ∀ p (s : State), ReportReach a (s.log, s.counters) → ReportReach a ((take p s).log, (take p s).counters)) :
    ReportReach a ((s.runCommand code take).log, (s.runCommand code take).counters) :=
  runCommand_keeps (P := fun s => ReportReach a (s.log, s.counters)) (fun _ _ h => h) (fun _ _ h => h) taking h

/-- A command's changes to the fault log and the counters are a chain of the changes of `ReportStep`. -/
theorem exec_reports {c : Instr} {t : State} (h : exec c s = .next t) :
    ReportReach (s.log, s.counters) (t.log, t.counters) := by
  have r : ReportReach (s.log, s.counters) (s.log, s.counters) := .refl
  have kept : ∀ {code : Byte} {take : Params → State → State},
      (∀ p (s : State), (take p s).log = s.log ∧ (take p s).counters = s.counters) →
      Host.Outcome.next (s.runCommand code take) = (.next t : Host.Outcome State Fault Refusal) →
      ReportReach (s.log, s.counters) (t.log, t.counters) := by
    intro code take hk h
    obtain rfl := Host.Outcome.next.inj h
    exact runCommand_reports r fun p s h => by rwa [(hk p s).1, (hk p s).2]
  have patrol : ∀ {op : Byte} {take : Params → State → State},
      (∀ p (s : State), (take p s).log = s.log ∧ (take p s).counters = s.counters) →
      Host.Outcome.next (s.runPatrol op take) = (.next t : Host.Outcome State Fault Refusal) →
      ReportReach (s.log, s.counters) (t.log, t.counters) := by
    intro op take hk h
    obtain rfl := Host.Outcome.next.inj h
    refine runCommand_reports r fun p s h => ?_
    repeat' split
    · rwa [(hk p s).1, (hk p s).2]
    · exact h
    · exact h
  cases c <;> dsimp only [exec] at h
  case coldReset => obtain rfl := Host.Outcome.next.inj h; exact r.tail (.reset _)
  case linkReset => obtain rfl := Host.Outcome.next.inj h; simpa using r
  case lineRead | lineWrite | lineMerge => obtain rfl := Host.Outcome.next.inj h; exact arrive_reports _ _ _ r
  case unknownMessageType | linkUp => obtain rfl := Host.Outcome.next.inj h; exact r
  case credit => obtain rfl := Host.Outcome.next.inj h; simpa using r
  case readCompletion =>
    rcases execReadCompletion_cases _ _ _ _ s with e | ⟨w, -, e⟩ <;> rw [e] at h <;> obtain rfl := Host.Outcome.next.inj h
    · exact lateCompletion_reports _ _ _ r
    · exact acceptRead_reports _ _ _ r
  case writeCompletion =>
    rcases execWriteCompletion_cases _ _ _ s with e | ⟨w, -, e⟩ <;> rw [e] at h <;> obtain rfl := Host.Outcome.next.inj h
    · exact lateCompletion_reports _ _ _ r
    · exact acceptWrite_reports _ _ _ r
  case mediaTimeout =>
    unfold execMediaTimeout at h
    split at h <;> obtain rfl := Host.Outcome.next.inj h
    · exact r
    · exact timeout_reports _ _ r
  case drainExpiry => unfold execDrainExpiry at h; split at h <;> obtain rfl := Host.Outcome.next.inj h <;> exact r
  case decayExpiry => unfold execDecayExpiry at h; split at h <;> obtain rfl := Host.Outcome.next.inj h <;> exact r
  case intervalExpiry =>
    unfold execIntervalExpiry at h
    split at h
    · obtain rfl := Host.Outcome.next.inj h
      exact r
    · dsimp only at h
      split at h <;> obtain rfl := Host.Outcome.next.inj h
      all_goals first | exact r | exact patrolAttempt_reports r
  case slotGrant =>
    unfold execSlotGrant at h
    dsimp only at h
    repeat' split at h
    all_goals obtain rfl := Host.Outcome.next.inj h; simpa using r
  case copyReadIssue =>
    unfold execCopyReadIssue at h
    repeat' split at h
    all_goals obtain rfl := Host.Outcome.next.inj h; simpa using r
  case patrolReadIssue => obtain rfl := Host.Outcome.next.inj h; exact patrolAttempt_reports r
  case warmReset =>
    obtain rfl := Host.Outcome.next.inj h
    refine runCommand_reports r fun p s h => ?_
    unfold State.warmReset State.warmEngine
    dsimp only
    split
    · simpa using abort_reports .warmReset (s := s.warmController) (by simpa using h)
    · simpa using h
  case spareRow =>
    obtain rfl := Host.Outcome.next.inj h
    refine runCommand_reports r fun p s h => ?_
    unfold State.spareRow
    repeat' split
    all_goals first | exact h | exact engineTake_reports h
  case abortMigration =>
    obtain rfl := Host.Outcome.next.inj h
    refine runCommand_reports r fun p s h => ?_
    unfold State.abortMigration
    split
    · exact h
    · exact engineTake_reports (abort_reports _ h)
  case popFault =>
    obtain rfl := Host.Outcome.next.inj h
    refine runCommand_reports r fun p s h => ?_
    unfold State.popFault
    split
    · exact h
    · rename_i hr
      simpa using h.tail (.pop s.log s.counters _ _ hr)
  case readCounters =>
    obtain rfl := Host.Outcome.next.inj h
    refine runCommand_reports r fun p s h => ?_
    unfold State.readCounters
    dsimp only
    repeat' split
    · simpa using h
    · simpa using h
    · simp only [State.clearGroup_frame, State.completeWith_frame]
      refine h.tail (.clear _ _ _ fun k => ?_)
      simp only [State.clearGroup, State.completeWith_frame, Fin.getElem_fin, Vector.getElem_ofFn]
      split
      · exact .inl rfl
      · exact .inr rfl
    · simpa using h
  case clearCounters =>
    obtain rfl := Host.Outcome.next.inj h
    refine runCommand_reports r fun p s h => ?_
    simpa using h.tail (.clear s.log s.counters (Vector.replicate 18 0) fun k => .inl (by simp))
  case start | stop | setInterval | setCursor => exact patrol (by simp) h
  case unknownCommand | commandOverrun | eventFlagWrite => obtain rfl := Host.Outcome.next.inj h; simpa using r
  case pointerWrite => unfold execPointerWrite at h; split at h <;> obtain rfl := Host.Outcome.next.inj h <;> exact r
  case registerWrite => unfold execRegisterWrite at h; split at h <;> obtain rfl := Host.Outcome.next.inj h <;> simpa using r
  case registerRead => unfold execRegisterRead at h; split at h <;> obtain rfl := Host.Outcome.next.inj h <;> exact r
  case addressByte => unfold execAddressByte at h; split at h <;> obtain rfl := Host.Outcome.next.inj h <;> exact r
  all_goals exact kept (by simp) h

end Sys2Proof.Machine
end

