-- ==== Sys2Proof/Laws/SettingChanges.lean ====
section
/-! SUPPORT. What a command can do to the watch block, the region table and the alert mask. -/

namespace Sys2Proof.Machine

/-! ### The watch block -/

/-- The changes that any operation makes to the watch block. -/
inductive WatchStep : Watch → Watch → Prop
  /-- A charge (R93 to R95). -/
  | charge (s : State) (bank row logical : Nat) : WatchStep s.watch (s.charge bank row logical).1.watch
  /-- A decay expiry (R97). -/
  | decay (w : Watch) (next : Option Nat) : WatchStep w { w with entries := decayEntries w.entries, nextExpiry := next }
  /-- Every entry removed (R102). -/
  | clear (w : Watch) : WatchStep w { w with entries := [] }
  /-- New thresholds and a new period (R92). -/
  | thresholds (w : Watch) (t0 t1 t2 t3 period : Nat) (next : Option Nat) :
      (1 ≤ t0 ∧ t0 ≤ 255) ∧ (1 ≤ t1 ∧ t1 ≤ 255) ∧ (1 ≤ t2 ∧ t2 ≤ 255) ∧ (1 ≤ t3 ∧ t3 ≤ 255) →
      WatchStep w { w with thresholds := #v[t0, t1, t2, t3], period := period, nextExpiry := next }
  /-- A cold reset (R90). -/
  | reset (w : Watch) : WatchStep w State.reset.watch

/-- A chain of such changes. -/
abbrev WatchReach : Watch → Watch → Prop := Relation.ReflTransGen WatchStep

variable {a : Watch} {s : State}

theorem dispatch_watch (f : ReadFacts) (h : WatchReach a s.watch) : WatchReach a (s.dispatch f).watch := by
  unfold State.dispatch
  split
  · exact h
  · exact h
  · have charged := h.tail (.charge (s.count .ceTotal) f.addr.bank f.addr.row (rowOf f.line))
    unfold State.dispatchCorrected
    dsimp only
    repeat' split
    all_goals simpa only [State.dispatchExhaustion_frame, State.offerRead_frame] using charged
  · simpa using h

theorem upstreamRead_watch (i : SlotNo) (w : Work) (tag : Tag) (attached : Bool) (o : Origin) (x y : ReadOutcome) (d : LineData)
    (h : WatchReach a s.watch) : WatchReach a (s.upstreamRead i w tag attached o x y d).watch := by
  unfold State.upstreamRead
  dsimp only
  split
  all_goals simpa using dispatch_watch _ (by simpa using h)

theorem copyRead_watch (w : Work) (x y : ReadOutcome) (d : LineData) (h : WatchReach a s.watch) :
    WatchReach a (s.copyRead w x y d).watch := by
  unfold State.copyRead
  dsimp only
  repeat' split
  all_goals simpa using dispatch_watch _ h

theorem patrolRead_watch (w : Work) (x y : ReadOutcome) (d : LineData) (h : WatchReach a s.watch) :
    WatchReach a (s.patrolRead w x y d).watch := by
  unfold State.patrolRead
  dsimp only
  split
  all_goals simpa using dispatch_watch _ h

theorem acceptRead_watch (i : SlotNo) (w : Work) (l : StoredLine) (h : WatchReach a s.watch) :
    WatchReach a (s.acceptRead i w l).watch := by
  unfold State.acceptRead
  dsimp only
  repeat' split
  · simpa using h
  · exact upstreamRead_watch _ _ _ _ _ _ _ _ (by simpa using h)
  · exact copyRead_watch _ _ _ _ (by simpa using h)
  · exact patrolRead_watch _ _ _ _ (by simpa using h)

theorem paramByte_le (p : Params) (i : Nat) : paramByte p i ≤ 255 := by
  unfold paramByte
  have := (p.toList.getD i 0).isLt
  omega

/-- A command's changes to the watch block are a chain of the changes of `WatchStep`. -/
theorem exec_watch {c : Instr} {t : State} (h : exec c s = .next t) : WatchReach s.watch t.watch := by
  have r : WatchReach s.watch s.watch := .refl
  have command : ∀ {code : Byte} {take : Params → State → State},
      (∀ p (s : State), WatchReach s.watch (take p s).watch) →
      Host.Outcome.next (s.runCommand code take) = (.next t : Host.Outcome State Fault Refusal) → WatchReach s.watch t.watch := by
    intro code take hk h
    obtain rfl := Host.Outcome.next.inj h
    exact runCommand_keeps (P := fun x => WatchReach s.watch x.watch) (fun _ _ h => h) (fun _ _ h => h)
      (fun p x h => h.trans (hk p x)) r
  have kept : ∀ {code : Byte} {take : Params → State → State}, (∀ p (s : State), (take p s).watch = s.watch) →
      Host.Outcome.next (s.runCommand code take) = (.next t : Host.Outcome State Fault Refusal) → WatchReach s.watch t.watch :=
    fun hk h => command (fun p x => by rw [hk]) h
  have patrol : ∀ {op : Byte} {take : Params → State → State}, (∀ p (s : State), (take p s).watch = s.watch) →
      Host.Outcome.next (s.runPatrol op take) = (.next t : Host.Outcome State Fault Refusal) → WatchReach s.watch t.watch := by
    intro op take hk h
    refine kept (fun p x => ?_) h
    repeat' split
    · exact hk p x
    · rfl
    · rfl
  cases c <;> dsimp only [exec] at h
  case coldReset => obtain rfl := Host.Outcome.next.inj h; exact r.tail (.reset _)
  case readCompletion =>
    rcases execReadCompletion_cases _ _ _ _ s with e | ⟨w, -, e⟩ <;> rw [e] at h <;> obtain rfl := Host.Outcome.next.inj h
    · simpa using r
    · exact acceptRead_watch _ _ _ r
  case writeCompletion =>
    rcases execWriteCompletion_cases _ _ _ s with e | ⟨w, -, e⟩ <;> rw [e] at h <;> obtain rfl := Host.Outcome.next.inj h
    all_goals simpa using r
  case mediaTimeout => unfold execMediaTimeout at h; split at h <;> obtain rfl := Host.Outcome.next.inj h <;> simpa using r
  case drainExpiry => unfold execDrainExpiry at h; split at h <;> obtain rfl := Host.Outcome.next.inj h <;> simpa using r
  case decayExpiry =>
    unfold execDecayExpiry at h
    split at h <;> obtain rfl := Host.Outcome.next.inj h
    · exact r
    · exact r.tail (.decay _ _)
  case intervalExpiry =>
    unfold execIntervalExpiry at h
    split at h
    · obtain rfl := Host.Outcome.next.inj h
      exact r
    · dsimp only at h
      split at h <;> obtain rfl := Host.Outcome.next.inj h <;> simpa using r
  case slotGrant =>
    unfold execSlotGrant at h
    dsimp only at h
    repeat' split at h
    all_goals obtain rfl := Host.Outcome.next.inj h; simpa using r
  case copyReadIssue =>
    unfold execCopyReadIssue at h
    repeat' split at h
    all_goals obtain rfl := Host.Outcome.next.inj h; simpa using r
  case clearWatch =>
    refine command (fun p x => ?_) h
    simpa using (Relation.ReflTransGen.refl (a := x.watch)).tail (.clear _)
  case setThresholds =>
    refine command (fun p x => ?_) h
    unfold State.setThresholds
    split
    · simpa using Relation.ReflTransGen.refl
    · rename_i hz
      have b := paramByte_le p
      simp only [State.complete_frame]
      exact Relation.ReflTransGen.refl.tail (.thresholds _ _ _ _ _ _ _
        ⟨⟨by omega, b 0⟩, ⟨by omega, b 1⟩, ⟨by omega, b 2⟩, ⟨by omega, b 3⟩⟩)
  case start | stop | setInterval | setCursor => exact patrol (by simp) h
  case pointerWrite => unfold execPointerWrite at h; split at h <;> obtain rfl := Host.Outcome.next.inj h <;> simpa using r
  case registerWrite => unfold execRegisterWrite at h; split at h <;> obtain rfl := Host.Outcome.next.inj h <;> simpa using r
  case registerRead => unfold execRegisterRead at h; split at h <;> obtain rfl := Host.Outcome.next.inj h <;> simpa using r
  case addressByte => unfold execAddressByte at h; split at h <;> obtain rfl := Host.Outcome.next.inj h <;> simpa using r
  case linkReset | lineRead | lineWrite | lineMerge | unknownMessageType | credit | patrolReadIssue | linkUp | unknownCommand
      | commandOverrun | eventFlagWrite => obtain rfl := Host.Outcome.next.inj h; simpa using r
  all_goals exact kept (by simp) h

/-! ### The region table and the alert mask -/

/-- Only SET_REGION, SET_ALERT_MASK and COLD_RESET touch the region table or the alert mask (R15, R171). -/
theorem exec_keeps_settings {c : Instr} {t : State} (region : c ≠ .setRegion) (mask : c ≠ .setAlertMask)
    (cold : ∀ spr ma, c ≠ .coldReset spr ma) (h : exec c s = .next t) : t.regions = s.regions ∧ t.mask = s.mask := by
  have kept : ∀ {code : Byte} {take : Params → State → State},
      (∀ p (s : State), (take p s).regions = s.regions ∧ (take p s).mask = s.mask) →
      Host.Outcome.next (s.runCommand code take) = (.next t : Host.Outcome State Fault Refusal) →
      t.regions = s.regions ∧ t.mask = s.mask := by
    intro code take hk h
    obtain rfl := Host.Outcome.next.inj h
    exact runCommand_keeps (P := fun x => x.regions = s.regions ∧ x.mask = s.mask) (fun _ _ h => h) (fun _ _ h => h)
      (fun p x h => ⟨(hk p x).1.trans h.1, (hk p x).2.trans h.2⟩) ⟨rfl, rfl⟩
  have patrol : ∀ {op : Byte} {take : Params → State → State},
      (∀ p (s : State), (take p s).regions = s.regions ∧ (take p s).mask = s.mask) →
      Host.Outcome.next (s.runPatrol op take) = (.next t : Host.Outcome State Fault Refusal) →
      t.regions = s.regions ∧ t.mask = s.mask := by
    intro op take hk h
    refine kept (fun p x => ?_) h
    repeat' split
    · exact hk p x
    · exact ⟨rfl, rfl⟩
    · exact ⟨rfl, rfl⟩
  cases c
  case coldReset => exact absurd rfl (cold _ _)
  case setRegion => exact absurd rfl region
  case setAlertMask => exact absurd rfl mask
  all_goals dsimp only [exec] at h
  case readCompletion =>
    rcases execReadCompletion_cases _ _ _ _ s with e | ⟨w, -, e⟩ <;> rw [e] at h <;> obtain rfl := Host.Outcome.next.inj h
    all_goals simp
  case writeCompletion =>
    rcases execWriteCompletion_cases _ _ _ s with e | ⟨w, -, e⟩ <;> rw [e] at h <;> obtain rfl := Host.Outcome.next.inj h
    all_goals simp
  case mediaTimeout => unfold execMediaTimeout at h; split at h <;> obtain rfl := Host.Outcome.next.inj h <;> simp
  case drainExpiry => unfold execDrainExpiry at h; split at h <;> obtain rfl := Host.Outcome.next.inj h <;> simp
  case decayExpiry => unfold execDecayExpiry at h; split at h <;> obtain rfl := Host.Outcome.next.inj h <;> simp
  case intervalExpiry =>
    unfold execIntervalExpiry at h
    split at h
    · obtain rfl := Host.Outcome.next.inj h
      simp
    · dsimp only at h
      split at h <;> obtain rfl := Host.Outcome.next.inj h <;> simp
  case slotGrant =>
    unfold execSlotGrant at h
    dsimp only at h
    repeat' split at h
    all_goals obtain rfl := Host.Outcome.next.inj h; simp
  case copyReadIssue =>
    unfold execCopyReadIssue at h
    repeat' split at h
    all_goals obtain rfl := Host.Outcome.next.inj h; simp
  case start | stop | setInterval | setCursor => exact patrol (by simp) h
  case pointerWrite => unfold execPointerWrite at h; split at h <;> obtain rfl := Host.Outcome.next.inj h <;> simp
  case registerWrite => unfold execRegisterWrite at h; split at h <;> obtain rfl := Host.Outcome.next.inj h <;> simp
  case registerRead => unfold execRegisterRead at h; split at h <;> obtain rfl := Host.Outcome.next.inj h <;> simp
  case addressByte => unfold execAddressByte at h; split at h <;> obtain rfl := Host.Outcome.next.inj h <;> simp
  case linkReset | lineRead | lineWrite | lineMerge | unknownMessageType | credit | patrolReadIssue | linkUp | unknownCommand
      | commandOverrun | eventFlagWrite => obtain rfl := Host.Outcome.next.inj h; simp
  all_goals exact kept (by simp) h

end Sys2Proof.Machine
end

