-- ==== Sys2Proof/Laws/SparingChanges.lean ====
section
/-! SUPPORT. Every step changes the remap block, the Sparing Request Queue and the Migration Engine through a chain of the changes of
`SparingStep` (the claims of R28, R37, R39, R41), so a law of the three that each of them keeps is kept by every step. -/

namespace Sys2Proof.Machine

/-- The remap block, the Sparing Request Queue and the Migration Engine. -/
abbrev Sparing := Remap × List SpareRequest × Option EngineCtx

/-- The three of a state. -/
@[simp] abbrev State.sparing (s : State) : Sparing := (s.remap, s.srq, s.engine)

/-- The remap block with an entry put into a slot and a spare's state changed: one claim. -/
def Remap.claim (r : Remap) (slot : Nat) (e : RemapEntry) (bank spare : Nat) (st : SpareState) : Remap :=
  Remap.setSpare { r with table := putEntry slot e r.table } bank spare st

/-- The remap block with a slot made FREE and a spare's state changed. -/
def Remap.release (r : Remap) (slot bank spare : Nat) (st : SpareState) : Remap :=
  Remap.setSpare { r with table := dropSlot slot r.table } bank spare st

/-- The changes that any operation makes to the three. -/
inductive SparingStep : Sparing → Sparing → Prop
  /-- An offer appended (R47). -/
  | append (r : Remap) (q : List SpareRequest) (g : Option EngineCtx) (x : SpareRequest) : q.length < 8 →
      (∀ y ∈ q, ¬(y.bank = x.bank ∧ y.row = x.row)) →
      (∀ y ∈ r.table, y.2.isMigrating = true → ¬(y.2.bank = x.bank ∧ y.2.row = x.row)) →
      SparingStep (r, q, g) (r, q ++ [x], g)
  /-- The head request refused (R51). -/
  | refuse (r : Remap) (x : SpareRequest) (q : List SpareRequest) : SparingStep (r, x :: q, none) (r, q, none)
  /-- A new sparing starts (R28, R53). -/
  | start (r : Remap) (x : SpareRequest) (q : List SpareRequest) (n k : Nat) (e : RemapEntry) (c : EngineCtx) :
      r.find x.bank x.row = none → r.freeSlot = some n → (r.pool x.bank).head? = some k →
      e.bank = x.bank → e.row = x.row → e.dest = k → e.state = .migrating .original →
      c.entrySlot = n → c.source = .original → c.dest = k →
      SparingStep (r, x :: q, none) (r.claim n e x.bank k .assigned, q, some c)
  /-- A re-spare starts (R28, R53). -/
  | respare (r : Remap) (x : SpareRequest) (q : List SpareRequest) (n k : Nat) (e : RemapEntry) (t : Millis) (c : EngineCtx) :
      r.find x.bank x.row = some (n, e) → (r.pool x.bank).head? = some k →
      c.entrySlot = n → c.source = .spare e.dest → c.dest = k →
      SparingStep (r, x :: q, none)
        (r.claim n { e with state := .migrating (.spare e.dest), dest := k, time := t } x.bank k .assigned, q, some c)
  /-- The copy goes on (R55, R56). -/
  | copy (r : Remap) (q : List SpareRequest) (c d : EngineCtx) : d.entrySlot = c.entrySlot → d.source = c.source → d.dest = c.dest →
      SparingStep (r, q, some c) (r, q, some d)
  /-- A restart onto the lowest FREE spare (R28, R64). -/
  | restart (r : Remap) (q : List SpareRequest) (c d : EngineCtx) (e : RemapEntry) (k : Nat) :
      r.entryAt c.entrySlot = some e → (r.pool e.bank).head? = some k →
      d.entrySlot = c.entrySlot → d.source = c.source → d.dest = k →
      SparingStep (r, q, some c)
        ((r.setSpare e.bank c.dest .dead).claim c.entrySlot { e with dest := k } e.bank k .assigned, q, some d)
  /-- The commit of a new sparing (R28, R62). -/
  | commitNew (r : Remap) (q : List SpareRequest) (c : EngineCtx) (e : RemapEntry) (g : Nat) (t : Millis) :
      r.entryAt c.entrySlot = some e → c.source = .original →
      SparingStep (r, q, some c)
        ({ r with table := (putEntry c.entrySlot
            { e with state := .active, dest := c.dest, origin := .migrated, generation := g, time := t } r.table) }, q, none)
  /-- The commit of a re-spare: the source spare retires (R28, R62). -/
  | commitMoved (r : Remap) (q : List SpareRequest) (c : EngineCtx) (e : RemapEntry) (g k : Nat) (t : Millis) :
      r.entryAt c.entrySlot = some e → c.source = .spare k →
      SparingStep (r, q, some c)
        (r.claim c.entrySlot { e with state := .active, dest := c.dest, origin := .migrated, generation := g, time := t }
          e.bank k .dead, q, none)
  /-- The revert of a new sparing (R28, R67). -/
  | revertNew (r : Remap) (q : List SpareRequest) (c : EngineCtx) (e : RemapEntry) (st : SpareState) :
      r.entryAt c.entrySlot = some e → c.source = .original → st ≠ .assigned →
      SparingStep (r, q, some c) (r.release c.entrySlot e.bank c.dest st, q, none)
  /-- The revert of a re-spare (R28, R67). -/
  | revertMoved (r : Remap) (q : List SpareRequest) (c : EngineCtx) (e : RemapEntry) (k : Nat) (t : Millis) (st : SpareState) :
      r.entryAt c.entrySlot = some e → c.source = .spare k → st ≠ .assigned →
      SparingStep (r, q, some c)
        (r.claim c.entrySlot { e with state := .active, dest := k, time := t } e.bank c.dest st, q, none)
  /-- A context without its entry is dropped; no run reaches it (R52). -/
  | drift (r : Remap) (q : List SpareRequest) (c : EngineCtx) : r.entryAt c.entrySlot = none → SparingStep (r, q, some c) (r, q, none)
  /-- INSTALL_ENTRY (R39). -/
  | install (r : Remap) (q : List SpareRequest) (g : Option EngineCtx) (n : Nat) (e : RemapEntry) :
      r.find e.bank e.row = none → r.freeSlot = some n → r.spareState e.bank e.dest = .free → e.state = .active →
      SparingStep (r, q, g) (r.claim n e e.bank e.dest .assigned, q, g)
  /-- DROP_ENTRY (R41). -/
  | drop (r : Remap) (q : List SpareRequest) (g : Option EngineCtx) (n : Nat) (e : RemapEntry) (st : SpareState) :
      r.entryAt n = some e → e.isMigrating = false → st ≠ .assigned →
      SparingStep (r, q, g) (r.release n e.bank e.dest st, q, g)
  /-- MARK_SPARE_DEAD (R42). -/
  | markDead (r : Remap) (q : List SpareRequest) (g : Option EngineCtx) (b k : Nat) : r.spareState b k = .free →
      SparingStep (r, q, g) (r.setSpare b k .dead, q, g)
  /-- SET_LOW_WATER (R34). -/
  | lowWater (r : Remap) (q : List SpareRequest) (g : Option EngineCtx) (m : Nat) : SparingStep (r, q, g) ({ r with lowWater := m }, q, g)
  /-- SET_RESERVATION (R37). -/
  | rebuild (r : Remap) (q : List SpareRequest) (g : Option EngineCtx) (n : Nat) (keep : SpareRequest → Bool) : r.table = [] →
      SparingStep (r, q, g) ({ r with s := n, spares := [] }, q.filter keep, g)
  /-- The queue emptied by a warm reset (R46). -/
  | clear (r : Remap) (q : List SpareRequest) (g : Option EngineCtx) : SparingStep (r, q, g) (r, [], g)
  /-- A cold reset (R29, R35, R46, R52). -/
  | reset (x : Sparing) (n : Nat) : SparingStep x ({ s := n, table := [], spares := [], lowWater := 2 }, [], none)

/-- A chain of such changes. -/
abbrev SparingReach : Sparing → Sparing → Prop := Relation.ReflTransGen SparingStep

variable {a : Sparing} {s : State}

/-! ### Taking requests -/

theorem startMigration_sparing {r : SpareRequest} {rest : List SpareRequest} {n k : Nat} {old : Option RemapEntry}
    (hv : s.validate r = .start n old k) (h : SparingReach a (s.remap, r :: rest, none)) :
    SparingReach a (State.startMigration { s with srq := rest } r n old k).sparing := by
  unfold State.validate at hv
  repeat' split at hv
  all_goals cases hv
  · rename_i x hx _ hk
    have e : (State.startMigration { s with srq := rest } r x.1 (some x.2) k).remap
        = s.remap.claim x.1 { x.2 with state := .migrating (.spare x.2.dest), dest := k, time := s.now } r.bank k .assigned := by
      simp [State.startMigration, Remap.claim, State.putEntry, State.now]
    have q : (State.startMigration { s with srq := rest } r x.1 (some x.2) k).srq = rest := by simp
    have g : ∃ c, (State.startMigration { s with srq := rest } r x.1 (some x.2) k).engine = some c ∧ c.entrySlot = x.1
        ∧ c.source = .spare x.2.dest ∧ c.dest = k := by simp [State.startMigration]
    obtain ⟨c, g, h1, h2, h3⟩ := g
    rw [State.sparing, e, q, g]
    exact h.tail (.respare _ _ _ _ _ _ _ _ hx hk h1 h2 h3)
  · have hx : s.remap.find r.bank r.row = none := by assumption
    have hn : s.remap.freeSlot = some n := by assumption
    have hk : (s.remap.pool r.bank).head? = some k := by assumption
    have e : (State.startMigration { s with srq := rest } r n none k).remap
        = s.remap.claim n { bank := r.bank, row := r.row, dest := k, state := .migrating .original, origin := .migrated,
                            generation := 0, time := s.now } r.bank k .assigned := by
      simp [State.startMigration, Remap.claim, State.now]
    have q : (State.startMigration { s with srq := rest } r n none k).srq = rest := by simp
    have g : ∃ c, (State.startMigration { s with srq := rest } r n none k).engine = some c ∧ c.entrySlot = n
        ∧ c.source = .original ∧ c.dest = k := by simp [State.startMigration]
    obtain ⟨c, g, h1, h2, h3⟩ := g
    rw [State.sparing, e, q, g]
    exact h.tail (.start _ _ _ _ _ _ _ hx hn hk rfl rfl rfl rfl h1 h2 h3)

theorem engineTakeFuel_sparing (n : Nat) (h : SparingReach a s.sparing) : SparingReach a (engineTakeFuel n s).sparing := by
  induction n generalizing s with
  | zero => exact h
  | succ n ih =>
    unfold engineTakeFuel
    split
    · rename_i r rest hg hq
      have h' : SparingReach a (s.remap, r :: rest, none) := by rw [← hg, ← hq]; exact h
      split
      · exact h
      · refine ih ?_
        simpa [hg] using h'.tail (.refuse _ _ _)
      · rename_i hv
        exact startMigration_sparing hv h'
    · exact h

theorem engineTake_sparing (h : SparingReach a s.sparing) : SparingReach a s.engineTake.sparing := engineTakeFuel_sparing _ h

/-- An offer that the queue takes is appended, and the engine may take the head (R47, R49). -/
theorem appendRequest_sparing {r : SpareRequest} (ht : s.testOffer r.bank r.row = .appended) (h : SparingReach a s.sparing) :
    SparingReach a (s.appendRequest r).sparing := by
  unfold State.testOffer at ht
  repeat' split at ht
  all_goals cases ht
  rename_i hd hl
  simp only [State.isDuplicate, Bool.or_eq_true, List.any_eq_true, Bool.and_eq_true, beq_iff_eq, not_or, not_exists,
    Config.sparingPlaces, not_le] at hd hl
  exact engineTake_sparing (h.tail (.append _ _ _ _ hl (fun y hy hk => hd.2 y ⟨hy, hk⟩)
    fun y hy hm hk => hd.1 y ⟨hy, ⟨hm, hk.1⟩, hk.2⟩))

theorem offerSparing_sparing (b r : Nat) (c : SpareCause) (h : SparingReach a s.sparing) :
    SparingReach a (s.offerSparing b r c).sparing := by
  unfold State.offerSparing
  split
  · exact h
  · exact h
  · simpa using h
  · rename_i ht
    exact appendRequest_sparing (r := { bank := b, row := r, cause := c }) ht h

/-! ### The migration in progress -/

theorem engineEntry_some {c : EngineCtx} {e : RemapEntry} (h : s.engineEntry = some (c, e)) :
    s.engine = some c ∧ s.remap.entryAt c.entrySlot = some e := by
  unfold State.engineEntry at h
  split at h
  · cases h
  · rename_i c' hc
    simp only [Option.map_eq_some_iff, Prod.mk.injEq] at h
    obtain ⟨e', he, rfl, rfl⟩ := h
    exact ⟨hc, he⟩

theorem engineEntry_none (h : s.engineEntry = none) : ∀ c, s.engine = some c → s.remap.entryAt c.entrySlot = none := by
  intro c hc
  simpa [State.engineEntry, hc] using h

/-- A context without its entry is dropped. -/
theorem drift_sparing (hn : s.engineEntry = none) (h : SparingReach a s.sparing) :
    SparingReach a (State.sparing { s with engine := none }) := by
  cases hg : s.engine with
  | none => simpa [hg] using h
  | some c => exact Relation.ReflTransGen.tail (by simpa [hg] using h) (.drift _ _ c (engineEntry_none hn c hg))

theorem commit_sparing (h : SparingReach a s.sparing) : SparingReach a s.commit.sparing := by
  unfold State.commit
  split
  · exact drift_sparing ‹_› h
  · rename_i c e he
    obtain ⟨hg, he⟩ := engineEntry_some he
    have h : SparingReach a (s.remap, s.srq, some c) := by simpa [hg] using h
    dsimp only
    split
    · rename_i hs
      simpa [State.putEntry] using h.tail (.commitNew _ _ _ e (min (e.generation + 1) 255) s.now he hs)
    · rename_i k hs
      simpa [State.putEntry, State.retireSpare, Remap.claim] using
        h.tail (.commitMoved _ _ _ e (min (e.generation + 1) 255) k s.now he hs)

theorem abort_sparing (y : AbortReason) (h : SparingReach a s.sparing) : SparingReach a (s.abort y).sparing := by
  unfold State.abort
  split
  · exact drift_sparing ‹_› h
  · rename_i c e he
    obtain ⟨hg, he⟩ := engineEntry_some he
    have h : SparingReach a (s.remap, s.srq, some c) := by simpa [hg] using h
    have reverted : SparingReach a ((s.orphanCopy.revert c e y).remap, s.srq, none) := by
      have he' : s.orphanCopy.remap = s.remap := by simp
      cases hs : c.source with
      | original =>
        unfold State.revert
        by_cases hy : y = .restartLimit
        · simpa [hs, hy, State.dropSlot, State.retireSpare, Remap.release] using h.tail (.revertNew _ _ _ e .dead he hs (by decide))
        · simpa [hs, hy, State.dropSlot, State.returnSpare, Remap.release] using h.tail (.revertNew _ _ _ e .free he hs (by decide))
      | spare k =>
        have hn : s.orphanCopy.now = s.now := by simp [State.now]
        unfold State.revert
        by_cases hy : y = .restartLimit
        · simpa [hs, hy, State.putEntry, State.retireSpare, Remap.claim, hn] using
            h.tail (.revertMoved _ _ _ e k s.now .dead he hs (by decide))
        · simpa [hs, hy, State.putEntry, State.returnSpare, Remap.claim, hn] using
            h.tail (.revertMoved _ _ _ e k s.now .free he hs (by decide))
    simpa using reverted

theorem restart_sparing {c : EngineCtx} {e : RemapEntry} {k : Nat} (hg : s.engine = some c)
    (he : s.remap.entryAt c.entrySlot = some e) (hk : (s.remap.pool e.bank).head? = some k) (h : SparingReach a s.sparing) :
    SparingReach a (s.restart c e k).sparing := by
  have h : SparingReach a (s.remap, s.srq, some c) := by simpa [hg] using h
  unfold State.restart
  simp only [State.putEntry, State.retireSpare, State.sparing, State.count_frame, State.offerRow_frame, State.releaseHeld_frame,
    assignSpare_remap, State.assignSpare_frame, State.orphanCopy_frame]
  exact h.tail (.restart _ _ c { c with state := .waitSlot, dest := k, cursor := 0, restarts := c.restarts + 1, poisoned := 0 }
      e k he hk rfl rfl rfl)

theorem destinationFailure_sparing (h : SparingReach a s.sparing) : SparingReach a s.destinationFailure.sparing := by
  unfold State.destinationFailure
  split
  · exact h
  · rename_i c e he
    obtain ⟨hg, he⟩ := engineEntry_some he
    split
    · exact engineTake_sparing (abort_sparing _ h)
    · split
      · exact engineTake_sparing (abort_sparing _ h)
      · rename_i k hk
        exact restart_sparing hg he hk h

/-! ### Dispatch of a read -/

theorem dispatch_sparing (f : ReadFacts) (h : SparingReach a s.sparing) : SparingReach a (s.dispatch f).sparing := by
  have failed : ∀ s : State, SparingReach a s.sparing → SparingReach a (s.failedDestinationRead f).sparing := by
    intro s h
    unfold State.failedDestinationRead
    dsimp only
    repeat' split
    all_goals first | exact h | exact destinationFailure_sparing h | exact offerSparing_sparing _ _ _ h
  have exhausted : ∀ (s : State) (b r : Nat), SparingReach a s.sparing → SparingReach a (s.dispatchExhaustion b r).sparing := by
    intro s b r h
    unfold State.dispatchExhaustion
    repeat' split
    all_goals first | exact h | exact destinationFailure_sparing h | exact offerSparing_sparing _ _ _ h
  unfold State.dispatch
  split
  · exact h
  · exact h
  · unfold State.dispatchCorrected
    dsimp only
    repeat' split
    · simpa using h
    · simpa using h
    · exact exhausted _ _ _ (by simpa using h)
    · exact exhausted _ _ _ (by simpa using h)
  · have ue : SparingReach a (((s.count .ueTotal).offerRead f (ueKind f.origin) f.detail).setFlag .ueSeen).sparing := by simpa using h
    unfold State.ueOffer
    repeat' split
    · exact ue
    · exact failed _ ue
    · exact offerSparing_sparing _ _ _ ue
    · exact ue

/-! ### Completions and timeouts -/

/-- The copy of a migration in progress goes on (R55, R56). -/
theorem copied {c d : EngineCtx} (hc : s.engine = some c) (h : SparingReach a s.sparing) (h1 : d.entrySlot = c.entrySlot)
    (h2 : d.source = c.source) (h3 : d.dest = c.dest) : SparingReach a (s.remap, s.srq, some d) :=
  Relation.ReflTransGen.tail (b := (s.remap, s.srq, some c)) (by simpa [hc] using h) (.copy _ _ _ _ h1 h2 h3)

theorem copyRead_sparing (w : Work) (x y : ReadOutcome) (d : LineData) (h : SparingReach a s.sparing) :
    SparingReach a (s.copyRead w x y d).sparing := by
  have dispatched : ∀ f, SparingReach a (s.dispatch f).sparing := fun f => dispatch_sparing f h
  unfold State.copyRead
  dsimp only
  repeat' split
  · simpa using dispatched _
  · rename_i c hc _ _
    simp only [State.sparing, State.issuePhase_frame]
    exact copied hc (dispatched _) rfl rfl rfl
  · rename_i c hc _ _
    simp only [State.sparing, State.issuePhase_frame]
    exact copied hc (dispatched _) rfl rfl rfl
  · simpa using dispatched _

theorem acceptRead_sparing (i : SlotNo) (w : Work) (l : StoredLine) (h : SparingReach a s.sparing) :
    SparingReach a (s.acceptRead i w l).sparing := by
  unfold State.acceptRead
  dsimp only
  repeat' split
  · simpa using h
  · unfold State.upstreamRead
    dsimp only
    split
    all_goals simpa using dispatch_sparing _ (by simpa using h)
  · exact copyRead_sparing _ _ _ _ (by simpa using h)
  · unfold State.patrolRead
    dsimp only
    split
    all_goals simpa using dispatch_sparing _ (by simpa using h)

theorem acceptWrite_sparing (i : SlotNo) (w : Work) (l : Bool) (h : SparingReach a s.sparing) :
    SparingReach a (s.acceptWrite i w l).sparing := by
  have written : ∀ s : State, SparingReach a s.sparing → SparingReach a s.copyWritten.sparing := by
    intro s h
    unfold State.copyWritten
    dsimp only
    split
    · simpa using h
    · rename_i c e he
      obtain ⟨hg, he⟩ := engineEntry_some he
      have copied : SparingReach a (s.remap, s.srq, some { c with state := .waitSlot, cursor := c.cursor + 1 }) :=
        Relation.ReflTransGen.tail (b := (s.remap, s.srq, some c)) (by simpa [← hg] using h) (.copy _ _ _ _ rfl rfl rfl)
      repeat' split
      · exact engineTake_sparing (commit_sparing (by simpa using copied))
      · simpa using copied
      · simpa using h
  unfold State.acceptWrite
  dsimp only
  generalize (if l = true then ({ w with leg1 := false } : Work) else { w with leg0 := false }) = w'
  split
  · simpa using h
  · unfold State.writeEnded
    repeat' split
    · simpa using h
    · simpa using h
    · simpa using h
    · exact written _ (by simpa using h)
    · simpa using h

theorem timeout_sparing (i : SlotNo) (w : Work) (h : SparingReach a s.sparing) : SparingReach a (s.timeout i w).sparing := by
  have tell : ∀ s : State, SparingReach a s.sparing → SparingReach a (s.tellTimeout w).sparing := by
    intro s h
    unfold State.tellTimeout
    repeat' split
    all_goals first | exact h | exact abort_sparing _ h | simpa using h
  have failed : ∀ s : State, SparingReach a s.sparing → SparingReach a (s.enterFailed i).sparing := by
    intro s h
    unfold State.enterFailed
    dsimp only
    simp only [State.sparing, State.closeIfEmpty_frame, State.answerFailed_frame, State.stopPatrol_frame]
    split
    · exact abort_sparing _ (by simpa using h)
    · simpa using h
  have after : ∀ s : State, SparingReach a s.sparing → SparingReach a (s.afterTimeout w).sparing := by
    intro s h
    unfold State.afterTimeout
    repeat' split
    all_goals first | exact h | exact engineTake_sparing h | simpa using h
  unfold State.timeout
  refine after _ ?_
  dsimp only
  split
  · exact failed _ (tell _ (by simpa using h))
  · exact tell _ (by simpa using h)

/-! ### Every step -/

theorem runCommand_sparing {code : Byte} {take : Params → State → State} (h : SparingReach a s.sparing)
    (taking : ∀ p (s : State), SparingReach a s.sparing → SparingReach a (take p s).sparing) :
    SparingReach a (s.runCommand code take).sparing :=
  runCommand_keeps (P := fun s => SparingReach a s.sparing) (fun _ _ h => h) (fun _ _ h => h) taking h

/-- A command's changes to the remap block, the Sparing Request Queue and the engine are a chain of the changes of
`SparingStep`. -/
theorem exec_sparing {c : Instr} {t : State} (h : exec c s = .next t) : SparingReach s.sparing t.sparing := by
  have r : SparingReach s.sparing s.sparing := .refl
  have kept : ∀ {code : Byte} {take : Params → State → State}, (∀ p (s : State), (take p s).sparing = s.sparing) →
      Host.Outcome.next (s.runCommand code take) = (.next t : Host.Outcome State Fault Refusal) →
      SparingReach s.sparing t.sparing := by
    intro code take hk h
    obtain rfl := Host.Outcome.next.inj h
    exact runCommand_sparing r fun p s h => by rwa [hk]
  have patrol : ∀ {op : Byte} {take : Params → State → State}, (∀ p (s : State), (take p s).sparing = s.sparing) →
      Host.Outcome.next (s.runPatrol op take) = (.next t : Host.Outcome State Fault Refusal) →
      SparingReach s.sparing t.sparing := by
    intro op take hk h
    obtain rfl := Host.Outcome.next.inj h
    refine runCommand_sparing r fun p s h => ?_
    repeat' split
    · rwa [hk]
    · exact h
    · exact h
  cases c <;> dsimp only [exec] at h
  case coldReset => obtain rfl := Host.Outcome.next.inj h; exact r.tail (.reset _ _)
  case readCompletion =>
    rcases execReadCompletion_cases _ _ _ _ s with e | ⟨w, -, e⟩ <;> rw [e] at h <;> obtain rfl := Host.Outcome.next.inj h
    · simpa using r
    · exact acceptRead_sparing _ _ _ r
  case writeCompletion =>
    rcases execWriteCompletion_cases _ _ _ s with e | ⟨w, -, e⟩ <;> rw [e] at h <;> obtain rfl := Host.Outcome.next.inj h
    · simpa using r
    · exact acceptWrite_sparing _ _ _ r
  case mediaTimeout =>
    unfold execMediaTimeout at h
    split at h <;> obtain rfl := Host.Outcome.next.inj h
    · exact r
    · exact timeout_sparing _ _ r
  case drainExpiry => unfold execDrainExpiry at h; split at h <;> obtain rfl := Host.Outcome.next.inj h <;> simpa using r
  case decayExpiry => unfold execDecayExpiry at h; split at h <;> obtain rfl := Host.Outcome.next.inj h <;> simpa using r
  case intervalExpiry =>
    unfold execIntervalExpiry at h
    split at h
    · obtain rfl := Host.Outcome.next.inj h
      exact r
    · dsimp only at h
      split at h <;> obtain rfl := Host.Outcome.next.inj h <;> simpa using r
  case slotGrant =>
    unfold execSlotGrant at h
    dsimp only at h
    repeat' split at h
    all_goals obtain rfl := Host.Outcome.next.inj h; simpa using r
  case copyReadIssue =>
    unfold execCopyReadIssue at h
    repeat' split at h
    all_goals obtain rfl := Host.Outcome.next.inj h
    · exact r
    · rename_i c e he _
      obtain ⟨hg, -⟩ := engineEntry_some he
      unfold State.issueCopyRead
      refine Relation.ReflTransGen.tail (b := (s.remap, s.srq, some c)) (by rw [← hg]) ?_
      simpa using SparingStep.copy s.remap s.srq c { c with state := .reading } rfl rfl rfl
    · exact r
  case warmReset =>
    obtain rfl := Host.Outcome.next.inj h
    refine runCommand_sparing r fun p s h => ?_
    unfold State.warmReset State.warmEngine
    dsimp only
    split
    · simpa using (abort_sparing .warmReset (s := s.warmController) (by simpa using h)).tail (.clear _ _ _)
    · simpa using h.tail (.clear _ _ _)
  case setReservation =>
    obtain rfl := Host.Outcome.next.inj h
    refine runCommand_sparing r fun p s h => ?_
    unfold State.setReservation
    repeat' split
    · simpa using h
    · simpa using h
    · rename_i hc
      simpa [State.rebuild] using h.tail (.rebuild _ _ _ (paramByte p 0) _ (by simpa using (not_or.mp hc).2))
  case installEntry =>
    obtain rfl := Host.Outcome.next.inj h
    refine runCommand_sparing r fun p s h => ?_
    unfold State.installEntry
    repeat' split
    · simpa using h
    · simpa using h
    · simpa using h
    · simpa using h
    · simpa using h
    · rename_i hf _ n hn hk
      have hf : s.remap.find (paramByte p 0) (paramHalf p 1) = none := by simpa using hf
      have hk : s.remap.spareState (paramByte p 0) (paramByte p 3) = .free := by simpa using hk
      simpa [State.install, Remap.claim] using h.tail (.install _ _ _ n
        { bank := paramByte p 0, row := paramHalf p 1, dest := paramByte p 3, state := .active, origin := .installed,
          generation := 0, time := s.now } hf hn hk rfl)
  case dropEntry =>
    obtain rfl := Host.Outcome.next.inj h
    refine runCommand_sparing r fun p s h => ?_
    unfold State.dropEntry
    repeat' split
    · simpa using h
    · simpa using h
    · simpa using h
    · simpa using h
    · simpa using h
    · rename_i dead _ _ _ _ e he hm
      have hm : e.isMigrating = false := by simpa using hm
      cases dead
      · simpa [State.drop, State.dropSlot, State.returnSpare, Remap.release] using h.tail (.drop _ _ _ _ e .free he hm (by decide))
      · simpa [State.drop, State.dropSlot, State.retireSpare, Remap.release] using h.tail (.drop _ _ _ _ e .dead he hm (by decide))
  case markSpareDead =>
    obtain rfl := Host.Outcome.next.inj h
    refine runCommand_sparing r fun p s h => ?_
    unfold State.markSpareDead
    repeat' split
    · simpa using h
    · rename_i hk
      simpa using h.tail (.markDead _ _ _ _ _ hk)
    · simpa using h
  case setLowWater =>
    obtain rfl := Host.Outcome.next.inj h
    refine runCommand_sparing r fun p s h => ?_
    unfold State.setLowWater
    split
    · simpa using h
    · simpa using h.tail (.lowWater _ _ _ (paramByte p 0))
  case spareRow =>
    obtain rfl := Host.Outcome.next.inj h
    refine runCommand_sparing r fun p s h => ?_
    unfold State.spareRow
    repeat' split
    all_goals try simpa using h
    rename_i ht
    simpa using appendRequest_sparing (r := { bank := paramByte p 0, row := paramHalf p 1, cause := .command }) ht h
  case abortMigration =>
    obtain rfl := Host.Outcome.next.inj h
    refine runCommand_sparing r fun p s h => ?_
    unfold State.abortMigration
    split
    · simpa using h
    · simpa using engineTake_sparing (abort_sparing .command h)
  case start | stop | setInterval | setCursor => exact patrol (by simp) h
  case pointerWrite => unfold execPointerWrite at h; split at h <;> obtain rfl := Host.Outcome.next.inj h <;> simpa using r
  case registerWrite => unfold execRegisterWrite at h; split at h <;> obtain rfl := Host.Outcome.next.inj h <;> simpa using r
  case registerRead => unfold execRegisterRead at h; split at h <;> obtain rfl := Host.Outcome.next.inj h <;> simpa using r
  case addressByte => unfold execAddressByte at h; split at h <;> obtain rfl := Host.Outcome.next.inj h <;> simpa using r
  case linkReset | lineRead | lineWrite | lineMerge | unknownMessageType | credit | patrolReadIssue | linkUp | unknownCommand
      | commandOverrun | eventFlagWrite => obtain rfl := Host.Outcome.next.inj h; simpa using r
  all_goals exact kept (by simp) h

end Sys2Proof.Machine
end

