-- ==== Sys2Proof/WellFormed.lean ====
section
/-! DEFINITION. What makes a command well formed: an operand that its own row allows. The widths are in the types. -/

namespace Sys2Proof

/-- UNKNOWN_MESSAGE_TYPE carries a type that is no request's (R181); UNKNOWN_COMMAND a code that names no command (R175).
Every other operand admits each value of its type. -/
def Instr.wellFormed : Instr → Bool
  | .unknownMessageType type => !namesRequest type
  | .unknownCommand code => !namesCommand code
  | .coldReset _ _ | .linkReset | .lineRead _ _ | .lineWrite _ _ _ | .lineMerge _ _ _ _ | .credit
  | .readCompletion _ _ _ _ | .writeCompletion _ _ _ | .mediaTimeout _ | .drainExpiry | .decayExpiry
  | .intervalExpiry | .slotGrant | .copyReadIssue | .patrolReadIssue | .getStatus | .openGate | .closeGate
  | .warmReset | .setReservation | .readRemap | .findRemap | .installEntry | .dropEntry | .readPool
  | .markSpareDead | .setLowWater | .spareRow | .abortMigration | .readWatch | .clearWatch | .setThresholds
  | .setRegion | .readRegion | .start | .stop | .setInterval | .setCursor | .setInject | .clearInject
  | .readFault | .popFault | .readCounters | .clearCounters | .setAlertMask | .commandOverrun _
  | .eventFlagWrite _ _ | .pointerWrite _ | .registerWrite _ | .linkUp | .registerRead | .addressByte _ _ => true

end Sys2Proof
end

