-- ==== Sys2Proof/Tests/Slice0.lean ====
section
/-! SUPPORT. The model's own tests: ill-formed commands, inbound messages read from their bytes, and for every statement states and
operands that meet its hypotheses, clause by clause, with what one step makes of them. -/

namespace Sys2Proof.Machine

/-! ### Well-formed commands and messages -/

theorem test_wellFormed_refuses_request_types :
    Instr.wellFormed (.unknownMessageType 1) = false ∧ Instr.wellFormed (.unknownMessageType 2) = false
      ∧ Instr.wellFormed (.unknownMessageType 3) = false := by decide

theorem test_wellFormed_refuses_command_codes :
    Instr.wellFormed (.unknownCommand 0x01) = false ∧ Instr.wellFormed (.unknownCommand 0x1B) = false := by decide

theorem test_wellFormed_accepts :
    Instr.wellFormed (.unknownMessageType 0) = true ∧ Instr.wellFormed (.unknownMessageType 0x81) = true
      ∧ Instr.wellFormed (.unknownCommand 0x00) = true ∧ Instr.wellFormed (.unknownCommand 0x1C) = true := by decide

/-- A LINE_READ with tag 5 of line 0x01020304, a type that is no request's, and a message that is not whole (R181). -/
theorem test_readMessage :
    readMessage [0x01, 0x05, 0x04, 0x03, 0x02, 0x01] = some (.lineRead 5 0x01020304)
      ∧ readMessage [0x84, 0x02] = some (.unknownMessageType 0x84) ∧ readMessage [0x01, 0x05] = none := by decide

/-- A LINE_WRITE whose data bytes count up from 0, and a LINE_MERGE of data byte 63 (R181). -/
theorem test_readMessage_data :
    (readMessage ([0x02, 0x3F, 0, 0, 1, 0] ++ (List.range 64).map fun i => BitVec.ofNat 8 i)).map (fun i => match i with
      | .lineWrite tag line data => (tag.toNat, line.toNat, (data.extractLsb' 8 8).toNat, (data.extractLsb' 504 8).toNat)
      | _ => (0, 0, 0, 0)) = some (63, 65536, 1, 63)
    ∧ (readMessage ([0x03, 0, 0, 0, 0, 0] ++ List.replicate 64 0 ++ [0, 0, 0, 0, 0, 0, 0, 0x80])).map (fun i => match i with
      | .lineMerge _ _ _ mask => mask.getLsbD 63
      | _ => false) = some true := by decide +kernel

/-- Lines with no, one and two symbols in error, at the ends of the ranges of symbol and change. -/
theorem test_outcomes :
    classify (sealLine 7) = (.clean, 7) ∧ classify (changeSymbol (sealLine 7) 0 1) = (.corrected, 7)
      ∧ classify (changeSymbol (sealLine 7) 143 15) = (.corrected, 7) ∧ (classify poisonMarker).1 = .poison
      ∧ (classify (changeTwo (sealLine 7) 0 1 143 15)).1 = .uncorrectable := by
  have promise := Config.checkCode.promise
  refine ⟨by simp [classify, classifyWith, sealLine], promise.one_symbol 7 0 1 (by decide) (by decide) (by decide),
    promise.one_symbol 7 143 15 (by decide) (by decide) (by decide), ?_,
    promise.two_symbols 7 0 1 143 15 (by decide) (by decide) (by decide) (by decide) (by decide) (by decide)⟩
  unfold classify classifyWith poisonMarker
  rw [if_neg, if_pos rfl]
  intro same
  have zero := congrArg (Config.checkBytes 0 ^^^ ·) same
  simp only [← BitVec.xor_assoc, BitVec.xor_self, BitVec.zero_xor] at zero
  exact promise.constant_nonzero zero

/-! ### Small states -/

/-- PARAM bytes, zero above those given. -/
def params (bytes : List Nat) : Params := Vector.ofFn fun i : Fin 12 => BitVec.ofNat 8 (bytes.getD i.val 0)

/-- A state whose PARAM registers hold these bytes. -/
def State.told (s : State) (bytes : List Nat) : State := { s with mgmt := { s.mgmt with param := params bytes } }

/-- The next state; the tests use it only where there is one. -/
def after (o : Host.Outcome State Fault Refusal) : State :=
  match o with
  | .next t => t
  | .fault _ => State.reset
  | .refused _ => State.reset

/-- The result of a command taken with these PARAM bytes; none while it is BUSY. -/
def State.answers (s : State) (c : Instr) (bytes : List Nat) : Option ResultCode :=
  let t := after (exec c (s.told bytes))
  if t.mgmt.running.isNone then some t.mgmt.result else none

/-- A told state takes any command, with the bytes told. -/
theorem told_takes (s : State) (bytes : List Nat) (code : Byte) (h : s.mgmt.running = none) :
    (s.told bytes).takes code (params bytes) := .inl ⟨h, rfl⟩

/-- A command that was started by its own COMMAND write, and waits to be taken. -/
theorem test_takes_started (code : Byte) (p : Params) : (State.reset.busy code p).takes code p := .inr ⟨rfl, rfl⟩

/-- The link up, the gate OPEN, 8 spares a bank. -/
def ready : State :=
  { State.reset with
    remap := { s := 8, table := [], spares := [], lowWater := 2 }
    ctl := { State.reset.ctl with linkUp := true, gate := .opened } }

/-- The state with another gate. -/
def State.gated (s : State) (g : Gate) : State := { s with ctl := { s.ctl with gate := g } }

/-- The state with the media port FAILED. -/
def State.failing (s : State) : State := { s with media := { s.media with failed := true } }

/-- The state with these requests queued, their credits spent. -/
def State.queued (s : State) (es : List IrqEntry) : State :=
  { s with ctl := { s.ctl with irq := es, g := s.ctl.g - es.length } }

/-- An entry of bank 2, row 100 (lines 205056 to 205183) in slot 0, with spare 0 of the bank. -/
def homeEntry (st : EntryState) : RemapEntry :=
  { bank := 2, row := 100, dest := 0, state := st, origin := .migrated, generation := 4, time := 0 }

/-- `ready` with that entry. -/
def mapped (st : EntryState) : State :=
  { ready with remap := { s := 8, table := [(0, homeEntry st)], spares := [{ bank := 2, index := 0, dead := false }], lowWater := 2 } }

/-- The context of that entry's migration. -/
def context (st : CopyState) (source : Source) (cursor restarts : Nat) : EngineCtx :=
  { state := st, entrySlot := 0, source := source, dest := 0, cursor := cursor, restarts := restarts, cause := .command,
    startTime := 0, poisoned := 1 }

/-- A new sparing in progress. -/
def sparing (st : CopyState) (cursor restarts : Nat) : State :=
  { mapped (.migrating .original) with engine := some (context st .original cursor restarts) }

/-- A re-spare in progress, from spare 1. -/
def resparing (st : CopyState) (cursor restarts : Nat) : State :=
  { mapped (.migrating (.spare 1)) with
    remap :=
      { s := 8, table := [(0, homeEntry (.migrating (.spare 1)))]
        spares := [{ bank := 2, index := 0, dead := false }, { bank := 2, index := 1, dead := false }], lowWater := 2 }
    engine := some (context st (.spare 1) cursor restarts) }

/-- Work of an upstream slot on line 5. -/
def work (phase : Phase) (tag : Tag) (leg0 leg1 : Bool) : Work :=
  { stage := .issued, owner := .upstream tag true, line := 5, phase := phase, target := { bank := 0, row := 0, column := 5 },
    target2 := none, leg0 := leg0, leg1 := leg1, fallback := none, start := 0 }

/-- Work of the background slot for the copy of line 127 of the row, its write in flight. -/
def copyWork : Work :=
  { stage := .issuedSecond, owner := .copy, line := 205183, phase := .write, target := { bank := 2, row := 32760, column := 127 },
    target2 := none, leg0 := true, leg1 := false, fallback := none, start := 0 }

/-- The state with work in a slot, epoch 3. -/
def State.holding (s : State) (i : SlotNo) (w : Work) : State := s.setSlot i { epoch := 3, work := some w }

/-- A LINE_READ of line 5 with tag 9, its read in slot 2. -/
def readEntry : IrqEntry := { tag := 9, kind := .read, line := 5, state := .issued 2 }

/-- The same with a LINE_WRITE. -/
def writeEntry : IrqEntry := { tag := 9, kind := .write 7, line := 5, state := .issued 2 }

/-- The spare marks of bank 2 with every spare FREE but spare 0, or none FREE. -/
def emptyPool : List SpareMark := (List.range 8).map fun k => { bank := 2, index := k, dead := k != 0 }

/-! ### The queue of commands and the bus -/

theorem test_step :
    step { State.reset with pending := [.linkUp, .credit] } = exec .linkUp { State.reset with pending := [.credit] }
      ∧ step State.reset = .next { State.reset with us := 1 } := ⟨rfl, rfl⟩

theorem test_coldReset :
    (after (exec (.coldReset 7 3) ready)).remap.s = 64 ∧ (after (exec (.coldReset 2 1) ready)).mgmt.ma = 1
      ∧ after (exec (.coldReset 0 0) ready) = State.reset := by decide

theorem test_linkUp_and_unknownMessageType :
    (after (exec .linkUp State.reset)).ctl.linkUp = true ∧ after (exec (.unknownMessageType 0) ready) = ready := by decide

/-- The bus in a state, with the pointer at an address. -/
def State.bused (s : State) (b : BusState) (pointer : BitVec 6) : State :=
  { s with mgmt := { s.mgmt with bus := b, pointer := pointer } }

theorem test_addressByte :
    (State.reset.mgmt.ma.toNat + 0x38 = 0x38 ∧ (after (exec (.addressByte 0x38 true) State.reset)).mgmt.bus = .reading)
      ∧ (after (exec (.addressByte 0x3B false) (after (exec (.coldReset 0 3) ready)))).mgmt.ack = true
      ∧ (after (exec (.addressByte 0x39 false) State.reset)).mgmt.ack = false := by decide

theorem test_pointerWrite :
    (State.reset.bused .pointerNext 0).mgmt.bus = .pointerNext
      ∧ (after (exec (.pointerWrite 0x7F) (State.reset.bused .pointerNext 0))).mgmt.pointer = 0x3F := by decide

/-- The first and the last byte of PARAM, and read-only registers at the edges of their ranges. -/
theorem test_registerWrite :
    (after (exec (.registerWrite 0xAB) (State.reset.bused .writing 0x09))).mgmt.param[0] = 0xAB
      ∧ (after (exec (.registerWrite 0xAB) (State.reset.bused .writing 0x14))).mgmt.param[11] = 0xAB
      ∧ ∀ a ∈ ([0x00, 0x04, 0x07, 0x08, 0x16, 0x3F] : List (BitVec 6)),
          after (exec (.registerWrite 0xAB) (State.reset.bused .writing a))
            = { State.reset with mgmt := { State.reset.mgmt with bus := .writing, pointer := a + 1, ack := true } } := by
  decide

/-- A COMMAND write starts a command; the next one is an overrun. -/
theorem test_registerWrite_command :
    (after (exec (.registerWrite 0x01) (State.reset.bused .writing 0x15))).mgmt.running
        = some { code := 0x01, params := params [], taken := false }
      ∧ (after (exec (.commandOverrun 0x02) (State.reset.busy 0x01 (params [])))).flag .cmdOverrun = true := by decide

/-- COMMAND written with the last code, with codes that name no command, and while BUSY; the flag bytes written. -/
theorem test_registerWrite_clauses :
    (after (exec (.registerWrite 0x1B) (State.reset.bused .writing 0x15))).mgmt.command = 0x1B
      ∧ (∀ code ∈ ([0x00, 0x1C] : List Byte),
        (after (exec (.registerWrite code) (State.reset.bused .writing 0x15))).mgmt.result = .badParam)
      ∧ (after (exec (.registerWrite 0x02) ((State.reset.busy 0x01 (params [])).bused .writing 0x15))).flags = 0x0400
      ∧ (after (exec (.registerWrite 0x08) ({ ready with flags := 0x0208 }.bused .writing 0x05))).flags = 0x0200
      ∧ (after (exec (.registerWrite 0x02) ({ ready with flags := 0x0208 }.bused .writing 0x06))).flags = 0x0008 := by decide

theorem test_registerRead :
    (after (exec .registerRead (State.reset.bused .reading 0x00))).mgmt.out = [0xA7]
      ∧ (after (exec .registerRead ((State.reset.told [1, 2]).bused .reading 0x0A))).mgmt.out = [2]
      ∧ (after (exec .registerRead ((State.reset.busy 0x04 (params [])).bused .reading 0x16))).mgmt.out = [0xFF]
      ∧ (after (exec .registerRead (State.reset.bused .reading 0x3F))).mgmt.pointer = 0 := by decide

/-- Each clause of RegisterReadReturnsTheRegister at the ends of its range. -/
theorem test_registerRead_clauses :
    (∀ a ∈ ([0x00, 0x01, 0x02, 0x03, 0x04, 0x05, 0x06, 0x07, 0x08, 0x09, 0x14, 0x15, 0x16, 0x17, 0x1F, 0x20, 0x3F] : List (BitVec 6)),
      (State.reset.bused .reading a).mgmt.bus = .reading)
      ∧ State.reset.mgmt.running = none ∧ (State.reset.busy 0x04 (params [])).mgmt.running ≠ none := by decide

/-- PART, REVISION, STATUS0, the two flag bytes, the two mask bytes and RESULT of an idle mailbox. -/
theorem test_registerRead_values :
    ([0x01, 0x02, 0x03, 0x05, 0x06, 0x07, 0x08, 0x16] : List (BitVec 6)).map (fun a =>
        (after (exec .registerRead ({ ready.failing with flags := 0x0208, mask := 0x07FF }.bused .reading a))).mgmt.out)
      = [[0x40], [0x10], [0x05], [0x08], [0x02], [0xFF], [0x07], [0x00]] := by decide

theorem test_eventFlagWrite :
    (after (exec (.eventFlagWrite .flags0 0x08) { State.reset with flags := 0x0208 })).flags = 0x0200
      ∧ (after (exec (.eventFlagWrite .flags1 0x02) { State.reset with flags := 0x0208 })).flags = 0x0008 := by decide

theorem test_unknownCommand :
    (State.reset.mgmt.running = none ∧ (0x1B < (0x1C : Byte).toNat) ∧ (0x00 : Byte).toNat = 0)
      ∧ after (exec (.unknownCommand 0x1C) State.reset) = State.reset.finished 0x1C .badParam := by decide

/-! ### Regions and translation -/

/-- A line and its parts: row 100, bank 2, column 127. -/
theorem test_lineOf : lineOf 100 2 127 = 205183 ∧ columnOf 205183 = 127 ∧ bankOf 205183 = 2 ∧ rowOf 205183 = 100 := by decide

/-- Three regions' limits 0, 64 and 32,768: rows on each side of a limit, and the default policy above every limit. -/
def regioned : State :=
  { ready with regions := #v[⟨0, Policy.default⟩, ⟨64, { Policy.default with scrub := true }⟩, ⟨64, Policy.default⟩,
      ⟨64, Policy.default⟩, ⟨64, Policy.default⟩, ⟨64, Policy.default⟩, ⟨64, Policy.default⟩, ⟨32768, Policy.default⟩] }

theorem test_regions_ok : RegionsOk regioned.regions ∧ RegionsOk State.reset.regions :=
  ⟨⟨by decide, by decide⟩, ⟨by decide, by decide⟩⟩

theorem test_policy :
    (regioned.policy 0).scrub = true ∧ (regioned.policy 63).scrub = true ∧ (regioned.policy 64).scrub = false
      ∧ State.reset.regions[7].limit ≤ 0 ∧ State.reset.policy 0 = Policy.default := by decide

theorem test_translation :
    (mapped .active).remap.find 2 100 = some (0, homeEntry .active) ∧ (mapped .active).remap.find 2 101 = none
      ∧ (mapped .active).translateRead 205183 = ({ bank := 2, row := 32760, column := 127 }, none)
      ∧ (sparing .waitSlot 1 0).translateWrite 205056
          = ({ bank := 2, row := 100, column := 0 }, some { bank := 2, row := 32760, column := 0 })
      ∧ (resparing .waitSlot 1 0).translateRead 205056
          = ({ bank := 2, row := 32760, column := 0 }, some { bank := 2, row := 32761, column := 0 })
      ∧ (sparing .waitSlot 1 0).translateWrite 205057 = ({ bank := 2, row := 100, column := 1 }, none) := by decide

theorem test_setRegion :
    ready.answers .setRegion [7, 0x00, 0x80, 1, 1, 1, 1, 1, 3] = some .ok
      ∧ ready.answers .setRegion [7, 0x01, 0x80, 1, 1, 1, 1, 1, 3] = some .badParam
      ∧ ready.answers .setRegion [8] = some .badParam ∧ ready.answers .setRegion [0, 0, 0, 0, 0, 0, 0, 0, 4] = some .badParam
      ∧ regioned.answers .setRegion [1, 65, 0] = some .badOrder
      ∧ regioned.answers .setRegion [2, 63, 0] = some .badOrder ∧ regioned.answers .setRegion [1, 64, 0] = some .ok := by decide

theorem test_readRegion :
    (after (exec .readRegion (regioned.told [7]))).mgmt.data.toList.take 13
        = [7, 64, 0, 0x00, 0x80, 0, 0, 0, 1, 0, 0, 0xB8, 0x7F]
      ∧ ready.answers .readRegion [8] = some .badParam := by decide

/-! ### Remap Table and pools -/

theorem test_findRemap :
    (mapped .active).answers .findRemap [2, 100, 0] = some .ok ∧ (mapped .active).answers .findRemap [2, 101, 0] = some .notFound
      ∧ (mapped .active).answers .findRemap [15, 0xF7, 0x7F] = some .notFound
      ∧ (mapped .active).answers .findRemap [15, 0xF8, 0x7F] = some .badParam
      ∧ (mapped .active).answers .findRemap [16] = some .badParam := by decide

theorem test_readRemap :
    (after (exec .readRemap ((mapped .active).told [0, 0]))).mgmt.data.toList.take 14
        = [0, 0, 2, 2, 100, 0, 0, 0xFF, 0, 4, 0, 0, 0, 0]
      ∧ ready.answers .readRemap [255, 0] = some .ok ∧ ready.answers .readRemap [0, 1] = some .badParam := by decide

theorem test_readPool :
    (after (exec .readPool ((mapped .active).told [2]))).mgmt.data.toList.take 9 = [2, 8, 2, 7, 1, 0, 1, 1, 0]
      ∧ ready.answers .readPool [15] = some .ok ∧ ready.answers .readPool [16] = some .badParam := by decide

theorem test_setReservation :
    (ready.gated .closed).answers .setReservation [64] = some .ok ∧ (ready.gated .closed).answers .setReservation [9] = some .badParam
      ∧ ready.answers .setReservation [64] = some .wrongState
      ∧ ((mapped .active).gated .closed).answers .setReservation [0] = some .wrongState := by decide

/-- `mapped .active` behind a CLOSED gate. -/
def shut : State := (mapped .active).gated .closed

/-- A full table: 256 entries of bank 0. -/
def crowded : State :=
  { shut with remap := { shut.remap with table := (List.range 256).map fun n => (n, { homeEntry .active with bank := 0, row := n }) } }

/-- Each check of INSTALL_ENTRY in its turn, and the entry. -/
theorem test_installEntry :
    shut.answers .installEntry [2, 101, 0, 8] = some .badParam ∧ (mapped .active).answers .installEntry [2, 101, 0, 1] = some .wrongState
      ∧ shut.answers .installEntry [2, 100, 0, 1] = some .duplicate ∧ shut.answers .installEntry [2, 101, 0, 0] = some .wrongState
      ∧ (after (exec .installEntry (shut.told [2, 101, 0, 7]))).remap.entryAt 1
        = some { bank := 2, row := 101, dest := 7, state := .active, origin := .installed, generation := 0, time := 0 }
      ∧ (after (exec .installEntry (shut.told [2, 101, 0, 7]))).remap.spareState 2 7 = .assigned := by decide

theorem test_dropEntry :
    shut.answers .dropEntry [0, 1, 0] = some .badParam ∧ shut.answers .dropEntry [0, 0, 2] = some .badParam
      ∧ (mapped .active).answers .dropEntry [0, 0, 0] = some .wrongState ∧ shut.answers .dropEntry [255, 0, 0] = some .notFound
      ∧ ((sparing .waitSlot 0 0).gated .closed).answers .dropEntry [0, 0, 0] = some .wrongState
      ∧ (after (exec .dropEntry (shut.told [0, 0, 1]))).remap.spareState 2 0 = .dead
      ∧ (after (exec .dropEntry (shut.told [0, 0, 0]))).remap.table = [] := by decide

theorem test_markSpareDead :
    ready.answers .markSpareDead [2, 8] = some .badParam ∧ (mapped .active).answers .markSpareDead [2, 0] = some .wrongState
      ∧ (after (exec .markSpareDead (ready.told [15, 7]))).remap.spareState 15 7 = .dead := by decide

theorem test_setLowWater :
    ready.answers .setLowWater [65] = some .badParam ∧ (after (exec .setLowWater (ready.told [64]))).remap.lowWater = 64
      ∧ (after (exec .setLowWater (ready.told [64]))).flags = 0 := by decide

/-! ### Sparing and migration -/

/-- `ready` with eight requests queued. -/
def waitingRequests : State :=
  { sparing .waitSlot 0 0 with srq := (List.range 8).map fun n => { bank := 3, row := n, cause := .budget } }

theorem test_spareRow_answers :
    ready.answers .spareRow [16] = some .badParam ∧ ready.answers .spareRow [2, 0xF8, 0x7F] = some .badParam
      ∧ (sparing .waitSlot 0 0).answers .spareRow [2, 100, 0] = some .duplicate
      ∧ waitingRequests.answers .spareRow [3, 7, 0] = some .duplicate ∧ waitingRequests.answers .spareRow [3, 8, 0] = some .full
      ∧ (sparing .waitSlot 0 0).answers .spareRow [3, 8, 0] = some .queued ∧ ready.failing.answers .spareRow [3, 8, 0] = some .queued := by
  decide

/-- Offers with cause UE: of a row that is not visible, of rows that are known, of one that is lost, and of one that joins the tail. -/
theorem test_offerSparing :
    waitingRequests.offerSparing 3 32760 .ue = waitingRequests ∧ waitingRequests.offerSparing 3 7 .ue = waitingRequests
      ∧ waitingRequests.offerSparing 2 100 .ue = waitingRequests
      ∧ (waitingRequests.offerSparing 3 8 .ue).counter .spareRequestsLost = 1
      ∧ ((waitingRequests.offerSparing 3 8 .ue).log.records.map fun r => (r.body.kind, r.body.detail)) = [(.spareRequestLost, 1)]
      ∧ ((sparing .waitSlot 0 0).offerSparing 3 8 .ue).srq = [{ bank := 3, row := 8, cause := .ue }] := by decide

/-- A start on an IDLE engine, and refusals with the pool empty and with the table full. -/
theorem test_spareRow_starts :
    (after (exec .spareRow (ready.told [2, 100, 0]))).engine
        = some { state := .waitSlot, entrySlot := 0, source := .original, dest := 0, cursor := 0, restarts := 0, cause := .command,
                 startTime := 0, poisoned := 0 }
      ∧ (after (exec .spareRow ({ mapped .active with remap := { (mapped .active).remap with spares := emptyPool } }.told
          [2, 100, 0]))).flag .spareRefused = true := by decide

/-- The hypotheses of the clauses of SpareRowStartsOrIsRefused. -/
theorem test_spareRow_hypotheses :
    (ready.srq = [] ∧ ready.engine = none ∧ ready.media.failed = false ∧ ready.remap.find 2 100 = none
        ∧ ready.remap.freeSlot = some 0 ∧ (ready.remap.pool 2).head? = some 0 ∧ ready.log.records.length < 32)
      ∧ ({ ready.remap with spares := emptyPool } : Remap).pool 2 = [] := by decide

/-- A state with one sparing request of bank 2, row 100 at the head of its queue. -/
def State.asked (s : State) (cause : SpareCause) : State := { s with srq := [{ bank := 2, row := 100, cause := cause }] }

/-- The refusals for POLICY and POOL_EMPTY, a new sparing and a re-spare of the head request. -/
theorem test_engineTake :
    ((ready.asked .ue).engine = none ∧ (ready.asked .ue).media.failed = false ∧ ((ready.asked .ue).policy 100).autospare = false)
      ∧ (ready.asked .ue).engineTake.counter .sparesRefused = 1
      ∧ (State.engineTake (State.asked { ready with remap := { ready.remap with spares := emptyPool } } .command)).flag .spareRefused = true
      ∧ (ready.asked .command).engineTake.engine = some { context .waitSlot .original 0 0 with poisoned := 0 }
      ∧ (((mapped .active).asked .command).remap.find 2 100 = some (0, homeEntry .active)
        ∧ ((mapped .active).asked .command).engineTake.remap.entryAt 0
          = some { homeEntry (.migrating (.spare 0)) with dest := 1 })
      ∧ (sparing .waitSlot 0 0).engineTake = sparing .waitSlot 0 0 := by decide

/-- A full table behind a CLOSED gate, no entry of which is MIGRATING or of bank 2. -/
theorem test_crowded :
    crowded.ctl.gate = .closed ∧ crowded.srq = [] ∧ crowded.engine = none ∧ crowded.remap.freeSlot = none
      ∧ crowded.remap.find 2 100 = none ∧ ∀ x ∈ crowded.remap.table, x.2.isMigrating = false := by
  refine ⟨rfl, rfl, rfl, freeSlot_none_iff.mpr fun n hn => ?_, find_none_iff.mpr ?_, ?_⟩
  · exact ⟨(n, { homeEntry .active with bank := 0, row := n }), List.mem_map.mpr ⟨n, List.mem_range.mpr hn, rfl⟩, rfl⟩
  · intro x hx
    obtain ⟨n, -, rfl⟩ := List.mem_map.mp hx
    simp
  · intro x hx
    obtain ⟨n, -, rfl⟩ := List.mem_map.mp hx
    rfl

/-- The abort of a new sparing and of a re-spare, and WRONG_STATE in IDLE. -/
theorem test_abortMigration :
    ready.answers .abortMigration [] = some .wrongState
      ∧ (after (exec .abortMigration ((sparing .reading 3 0).holding 15 { copyWork with phase := .read }))).remap.table = []
      ∧ ((after (exec .abortMigration ((sparing .reading 3 0).holding 15 { copyWork with phase := .read }))).slot 15).work.map Work.stage
          = some .orphan
      ∧ (after (exec .abortMigration (resparing .waitSlot 3 0))).remap.entryAt 0
          = some { homeEntry .active with dest := 1 } := by decide

/-- An abort of a re-spare for RESTART_LIMIT, with a copy in flight and without: the destination DEAD, the record with its reason. -/
theorem test_abort :
    (resparing .reading 3 0).remap.entryAt 0 = some (homeEntry (.migrating (.spare 1)))
      ∧ (((resparing .reading 3 0).holding 15 copyWork).abort .restartLimit).remap.spareState 2 0 = .dead
      ∧ ((((resparing .reading 3 0).holding 15 copyWork).abort .restartLimit).slot 15).work = some { copyWork with stage := .orphan }
      ∧ (((resparing .waitSlot 3 0).abort .mediaFailed).log.records.map fun r => (r.body.origin, r.body.detail)) = [(.engine, 2)] := by
  decide

theorem test_copyReadIssue :
    ((sparing .waitSlot 127 0).remap.entryAt 0 = some (homeEntry (.migrating .original))
        ∧ (∀ i ∈ upstreamSlots, ((sparing .waitSlot 127 0).slot i).onLine 205183 = false)
        ∧ ((sparing .waitSlot 127 0).slot background).work = none)
      ∧ (after (exec .copyReadIssue (sparing .waitSlot 127 0))).media.out = [.read 15 0 { bank := 2, row := 100, column := 127 }]
      ∧ (after (exec .copyReadIssue (resparing .waitSlot 0 0))).media.out = [.read 15 0 { bank := 2, row := 32761, column := 0 }] := by
  decide

/-- Work of the background slot for the copy read of line 3 of the row. -/
def copyRead : Work := { copyWork with stage := .issued, line := 205059, phase := .read, target := { bank := 2, row := 100, column := 3 } }

/-- The copy read of CopyReadIssuesFromTheSource with a line that reads CLEAN, one that reads POISON, an engine that is not READING, and
an orphan. -/
theorem test_copyRead_hypotheses (leg : Bool) :
    let s := (sparing .reading 3 0).holding 15 copyRead
    ((s.slot background).work = some copyRead ∧ copyRead.owner = .copy ∧ copyRead.stage ≠ .orphan ∧ copyRead.phase ≠ .write)
      ∧ (s.dispatched copyRead (sealLine 7) .copy false 0).engine = some (context .reading .original 3 0)
      ∧ (s.dispatched copyRead poisonMarker .copy false 0).engine = some (context .reading .original 3 0)
      ∧ ((ready.holding 15 copyRead).dispatched copyRead (sealLine 7) .copy false 0).engine = none
      ∧ after (exec (.readCompletion 15 3 leg (sealLine 7)) ((sparing .reading 3 0).holding 15 { copyRead with stage := .orphan }))
        = State.freed { (sparing .reading 3 0).holding 15 { copyRead with stage := .orphan } with
            media := { ((sparing .reading 3 0).holding 15 { copyRead with stage := .orphan }).media with timeouts := 0 } } 15 := by
  have clean : classify (sealLine 7) = (.clean, 7) := by simp [classify, classifyWith, sealLine]
  have poison : (classify poisonMarker).1 = .poison := test_outcomes.2.2.2.1
  refine ⟨by decide, ?_, ?_, ?_, rfl⟩
  · unfold State.dispatched State.outcomeOf
    rw [clean]
    decide
  · unfold State.dispatched State.outcomeOf
    rw [poison]
    decide
  · unfold State.dispatched State.outcomeOf
    rw [clean]
    decide

/-- The last copy write of a re-spare: the entry ACTIVE, its former spare DEAD. -/
theorem test_commit :
    (after (exec (.writeCompletion 15 3 false) ((resparing .writing 127 0).holding 15 copyWork))).engine = none
      ∧ (after (exec (.writeCompletion 15 3 false) ((resparing .writing 127 0).holding 15 copyWork))).remap.entryAt 0
          = some { homeEntry .active with generation := 5 }
      ∧ (after (exec (.writeCompletion 15 3 false) ((resparing .writing 127 0).holding 15 copyWork))).remap.spareState 2 1 = .dead := by
  decide

/-- The hypotheses of LastCopyWriteCommits. -/
theorem test_commit_hypotheses :
    ((resparing .writing 127 0).holding 15 copyWork).engineEntry
        = some (context .writing (.spare 1) 127 0, homeEntry (.migrating (.spare 1)))
      ∧ (((resparing .writing 127 0).holding 15 copyWork).slot background).work = some copyWork ∧ copyWork.stage = .issuedSecond
      ∧ (resparing .writing 127 0).srq = [] ∧ (resparing .writing 127 0).log.records.length < 32 := by decide

/-- The copy write of line 3 with a HELD write behind it: the cursor advances and the write is released. -/
theorem test_copyWritten :
    let s := ((sparing .writing 3 0).queued [{ writeEntry with line := 205059, state := .held }]).holding 15
      { copyWork with line := 205059 }
    ((s.slot background).work = some { copyWork with line := 205059 } ∧ s.remap.entryAt 0 = some (homeEntry (.migrating .original)))
      ∧ (after (exec (.writeCompletion 15 3 false) s)).engine = some (context .waitSlot .original 4 0)
      ∧ (after (exec (.writeCompletion 15 3 false) s)).ctl.irq.map IrqEntry.state = [.waiting] := by decide

/-- A destination failure with three restarts made, with no FREE spare, and with one. -/
theorem test_destinationFailure :
    (sparing .reading 3 3).destinationFailure.remap.spareState 2 0 = .dead
      ∧ (0 ∉ (sparing .reading 3 0).remap.pool 2) ∧ ((sparing .reading 3 0).remap.pool 2).head? = some 1
      ∧ (sparing .reading 3 0).destinationFailure.engine
          = some { context .waitSlot .original 0 1 with dest := 1, poisoned := 0 }
      ∧ State.engine (State.destinationFailure
          { sparing .reading 3 0 with remap := { (sparing .reading 3 0).remap with spares := emptyPool } }) = none := by decide

/-- The facts of a read of line 205056 at an address, as origin and outcome have it. -/
def facts (origin : Origin) (delivered : ReadOutcome) (held : Bool) (row : Nat) : ReadFacts :=
  { origin := origin, line := 205056, addr := { bank := 2, row := row, column := 0 }, real := .clean, delivered := delivered
    held := held, detail := 9 }

/-- UNCORRECTABLE outcomes: of the destination of a migration, of another spare, of the row's ACTIVE spare and of a row without an entry,
each with a fallback target; and of a patrol read. -/
theorem test_dispatch_uncorrectable :
    (32768 - (sparing .reading 3 0).remap.s + (homeEntry .active).dest = 32760
        ∧ ((sparing .reading 3 0).dispatch (facts .upstream .uncorrectable true 32760)).counter .migrationRestarts = 1)
      ∧ ((sparing .reading 3 0).dispatch (facts .upstream .uncorrectable true 32761)).counter .migrationRestarts = 0
      ∧ ((mapped .active).dispatch (facts .upstream .uncorrectable true 32760)).srq = []
      ∧ (ready.dispatch (facts .upstream .uncorrectable true 32760)).flags = 0x0004
      ∧ ((ready.dispatch (facts .patrol .uncorrectable false 100)).log.records.map fun r => (r.body.kind, r.body.injected, r.body.detail))
        = [(.uePatrol, true, 9)]
      ∧ (ready.dispatch (facts .copy .poison false 100)).counter .poisonReads = 1 := by decide

/-! ### Outcomes, the Watch List and injection -/

theorem test_deliver :
    deliver .poison [.corrected] = .corrected ∧ deliver .clean [.corrected, .uncorrectable] = .uncorrectable
      ∧ deliver .corrected [] = .corrected := by decide

/-- A Watch List entry of bank 1, row 7 with this budget. -/
def watchEntry (budget : Nat) : WatchEntry :=
  { bank := 1, row := 7, logical := 7, threshold := 8, budget := budget, errors := 3, time := 0 }

/-- `ready` with that entry. -/
def watching (budget : Nat) : State := { ready with watch := { ready.watch with entries := [watchEntry budget] } }

theorem test_watch_ok : (watching 2).watch.Ok ∧ (watching 1).watch.Ok :=
  ⟨⟨by decide, by decide, by decide, by decide⟩, ⟨by decide, by decide, by decide, by decide⟩⟩

theorem test_charge :
    ((watching 2).charge 1 7 7).1.watch.entries = [{ watchEntry 1 with errors := 4 }] ∧ ((watching 1).charge 1 7 7).2 = some 4
      ∧ (ready.charge 1 7 7).1.watch.entries = [{ watchEntry 7 with errors := 1 }]
      ∧ (State.charge { ready with watch := { ready.watch with thresholds := #v[1, 1, 1, 1] } } 1 7 7).2 = some 1 := by decide

/-- A full list whose third entry is the oldest of the highest budget, 5: evicted for a new budget of 5, kept before one of 6. -/
def fullList : List WatchEntry :=
  (List.range 64).map fun n => { watchEntry (if n = 2 ∨ n = 9 then 5 else 1) with row := n, logical := n }

theorem test_charge_full :
    (fullList = fullList.take 2 ++ fullList[2] :: fullList.drop 3 ∧ (∀ e ∈ fullList.take 2, e.budget < 5)
        ∧ (∀ e ∈ fullList.drop 3, e.budget ≤ 5) ∧ fullList[2].budget = 5)
      ∧ (let s := { ready with watch := { ready.watch with entries := fullList, thresholds := #v[6, 6, 6, 6] } }
        (s.charge 1 64 64).1.counter .watchEvictions = 1 ∧ (s.charge 1 64 64).1.watch.entries.length = 64)
      ∧ (let s := { ready with watch := { ready.watch with entries := fullList, thresholds := #v[7, 7, 7, 7] } }
        (s.charge 1 64 64).1.counter .watchMisses = 1 ∧ (s.charge 1 64 64).1.watch.entries = fullList) := by decide +kernel

/-- A state in which every charge exhausts, in a region with AUTOSPARE and CE_LOG. -/
def State.failingFast (s : State) : State :=
  { s with
    watch := { s.watch with thresholds := #v[1, 1, 1, 1] }
    regions := Vector.replicate 8 { limit := 32768, policy := { Policy.default with autospare := true, ceLog := true } } }

/-- A CORRECTED outcome and its exhaustion by the standing of the row: original in use, original out of use, unassigned spare, the home
of an ACTIVE entry, the destination of a migration; and a charge without an exhaustion. -/
theorem test_dispatch_corrected :
    (ready.dispatch (facts .copy .corrected false 100)).counter .ceTotal = 1
      ∧ (ready.failingFast.dispatch (facts .upstream .corrected false 100)).engine.map EngineCtx.cause = some .budget
      ∧ ((ready.failingFast.dispatch (facts .upstream .corrected false 100)).log.records.map fun r => r.body.kind)
        = [.ceUpstream, .budgetExhausted, .spareStarted]
      ∧ ((mapped .active).failingFast.dispatch (facts .upstream .corrected false 100)).engine = none
      ∧ (ready.failingFast.dispatch (facts .upstream .corrected false 32767)).engine = none
      ∧ ((mapped .active).failingFast.dispatch (facts .upstream .corrected false 32760)).engine.map EngineCtx.source = some (.spare 0)
      ∧ ((sparing .reading 3 0).failingFast.dispatch (facts .upstream .corrected true 32760)).counter .migrationRestarts = 1 := by
  decide

theorem test_readWatch :
    (watching 2).answers .readWatch [0] = some .ok ∧ (watching 2).answers .readWatch [1] = some .notFound
      ∧ (watching 2).answers .readWatch [63] = some .notFound ∧ (watching 2).answers .readWatch [64] = some .badParam := by decide

theorem test_clearWatch_and_setThresholds :
    (after (exec .clearWatch ((watching 2).told []))).watch.entries = []
      ∧ ready.answers .setThresholds [1, 255, 1, 0] = some .badParam
      ∧ (after (exec .setThresholds (ready.told [1, 255, 1, 1, 0, 0]))).watch.nextExpiry = none
      ∧ (after (exec .setThresholds (ready.told [1, 255, 1, 1, 0, 1]))).watch.nextExpiry = some 256000 := by decide

theorem test_decayExpiry :
    ready.watch.nextExpiry = some 1000000 ∧ (after (exec .decayExpiry (watching 6))).watch.entries = [watchEntry 7]
      ∧ (after (exec .decayExpiry (watching 7))).watch.entries = [] ∧ (after (exec .decayExpiry (watching 7))).us = 1000000 := by decide

theorem test_setInject :
    ready.answers .setInject [3, 1, 15, 0xF7, 0x7F, 0xFF, 1, 7, 2, 0] = some .ok
      ∧ ready.answers .setInject [3, 1, 15, 0xF8, 0x7F, 0xFF, 1, 7, 2, 0] = some .badParam
      ∧ ready.answers .setInject [3, 0, 16, 0xF8, 0x7F, 127, 1, 1, 1, 1] = some .ok
      ∧ ready.answers .setInject [4, 0, 0, 0, 0, 0, 0, 1, 1, 1] = some .badParam
      ∧ ready.answers .setInject [0, 0, 0, 0, 0, 128, 0, 1, 1, 1] = some .badParam
      ∧ ready.answers .setInject [0, 0, 0, 0, 0, 0, 0, 8, 1, 1] = some .badParam
      ∧ ready.answers .setInject [0, 0, 0, 0, 0, 0, 0, 1, 1, 0] = some .badParam := by decide

theorem test_clearInject :
    ready.answers .clearInject [3] = some .ok ∧ ready.answers .clearInject [4] = some .badParam := by decide

/-- The patrol in a state, every row scrubbed. -/
def patrolling (st : PatrolState) (due : Bool) (cursor : Nat) : State :=
  { ready with
    regions := Vector.replicate 8 { limit := 32768, policy := { Policy.default with scrub := true } }
    patrol := { ready.patrol with state := st, due := due, cursor := cursor, timer := some 100 } }

/-- A slot armed for line 5, for upstream and patrol reads. -/
def armed (outcome : InjectOutcome) (mode : InjectMode) (n count : Nat) : InjectSlot :=
  { armed := true, bank := 0, row := 0, column := .column 5, outcome := outcome, onUpstream := true, onPatrol := true, onCopy := false
    mode := mode, n := n, count := count }

/-- `s` with that slot as slot 0. -/
def State.injecting (s : State) (x : InjectSlot) : State := { s with inject := s.inject.set 0 x }

/-! ### Media port -/

/-- A LINE_READ of line 5 in flight in slot 2. -/
def reading : State := (ready.queued [readEntry]).holding 2 (work .read 9 true false)

/-- A dual write of line 5 in flight in slot 2. -/
def writing : State := (ready.queued [writeEntry]).holding 2 (work .write 9 true true)

theorem test_lateCompletion :
    after (exec (.readCompletion 2 4 false { data := 0, check := 0 }) reading) = reading.count .lateCompletions
      ∧ after (exec (.writeCompletion 2 3 false) reading) = reading.count .lateCompletions
      ∧ after (exec (.writeCompletion 0 0 true) ready) = ready.count .lateCompletions := by decide +kernel

/-- The hypotheses of CleanReadIsAnswered: a line written with computed check bytes is CLEAN (R76). -/
theorem test_cleanRead_hypotheses (data : LineData) :
    (reading.slot 2).work = some (work .read 9 true false) ∧ reading.ctl.irq.find? (fun x => x.tag == 9) = some readEntry
      ∧ reading.media.failed = false ∧ reading.ctl.gate = .opened ∧ (classify (sealLine data)).1 = .clean
      ∧ reading.uninjected .upstream 5 :=
  ⟨rfl, by decide, rfl, rfl, by simp [classify, classifyWith, sealLine], by unfold State.uninjected; decide⟩

/-- The three modes one match short of n and at it, with what they fire; a row that S makes invisible; and an origin out of the mask. -/
theorem test_matches :
    (∀ x ∈ [(armed .corrected .oneShot 2 0, true, 1, ([] : List InjectOutcome)), (armed .corrected .oneShot 2 1, false, 2, [.corrected]),
          (armed .uncorrectable .periodic 2 0, true, 1, []), (armed .uncorrectable .periodic 2 1, true, 0, [.uncorrectable]),
          (armed .corrected .continuous 0 255, true, 255, [.corrected])],
        ((reading.injecting x.1).countMatches .upstream 5).inject[0] = { x.1 with armed := x.2.1, count := x.2.2.1 }
          ∧ (reading.injecting x.1).firedBy .upstream 5 = x.2.2.2)
      ∧ (armed .corrected .continuous 0 0).matchesRead 8 .copy 5 = false
      ∧ ({ armed .corrected .continuous 0 0 with row := 32760 }).matchesRead 8 .patrol (lineOf 32760 0 5) = false := by decide

/-- The hypotheses of CleanReadIsAnswered's other clauses: a detached read, an UNCORRECTABLE read that holds a fallback target, and one
that holds none. -/
theorem test_upstreamRead_hypotheses (line : StoredLine) :
    let held := { work .read 9 true false with fallback := some { bank := 0, row := 0, column := 5 } }
    let s := (reading.injecting (armed .uncorrectable .continuous 0 0)).holding 2 held
    ((s.slot 2).work = some held ∧ s.ctl.irq.find? (fun x => x.tag == 9) = some readEntry ∧ s.media.failed = false
        ∧ s.outcomeOf .upstream held line = .uncorrectable ∧ s.failing.media.failed = true)
      ∧ (let t := reading.injecting (armed .uncorrectable .continuous 0 0)
        t.outcomeOf .upstream (work .read 9 true false) line = .uncorrectable ∧ (work .read 9 true false).fallback = none)
      ∧ ((after (exec .linkReset reading)).slot 2).work = some { work .read 9 true false with owner := .upstream 9 false } :=
  ⟨⟨rfl, by decide, rfl, rfl, rfl⟩, ⟨rfl, rfl⟩, by decide⟩

/-- An answer with the port FAILED lets go the entry behind it, and a QUIESCING gate closes on the empty queue. -/
theorem test_endWithAnswer :
    let s := (((ready.queued [readEntry, { writeEntry with tag := 10, state := .waiting }]).holding 2 (work .read 9 true false)).failing)
    (s.endWithAnswer 2 9 (.readFail 9 .uncorrectable)).ctl.out = [.readFail 9 .uncorrectable, .writeResponse 10 (some .mediaFailed)]
      ∧ ((s.gated .quiescing).endWithAnswer 2 9 (.readFail 9 .uncorrectable)).ctl.gate = .closed
      ∧ ((reading.gated .quiescing).endWithAnswer 2 9 (.readFail 9 .uncorrectable)).flag .gateClosed = true
      ∧ (writing.endWithAnswer 2 9 (.writeResponse 9 none)).ctl.gate = .opened := by decide

/-- The hypotheses of LastLegAnswersTheWrite for a LINE_MERGE: a sound line, one that injection makes unsound, and the port FAILED. -/
theorem test_mergeRead_hypotheses :
    let entry := { readEntry with kind := .merge 7 1 }
    let s := (ready.queued [entry]).holding 2 (work .read 9 true false)
    let t := s.injecting (armed .uncorrectable .continuous 0 0)
    (s.ctl.irq.find? (fun x => x.tag == 9) = some entry ∧ soundOutcome (classify (sealLine 3)).1 = true
        ∧ soundOutcome (s.outcomeOf .upstream (work .read 9 true false) (sealLine 3)) = true ∧ s.media.failed = false)
      ∧ (soundOutcome (t.outcomeOf .upstream (work .read 9 true false) (sealLine 3)) = false ∧ s.failing.media.failed = true) := by
  have clean : classify (sealLine 3) = (.clean, 3) := by simp [classify, classifyWith, sealLine]
  refine ⟨⟨rfl, by rw [clean]; rfl, ?_, rfl⟩, rfl, rfl⟩
  unfold State.outcomeOf
  rw [clean]
  rfl

theorem test_writeCompletion :
    (after (exec (.writeCompletion 2 3 true) writing)).ctl.out = []
      ∧ (after (exec (.writeCompletion 2 3 true) (writing.holding 2 (work .write 9 false true)))).ctl.out
          = [.writeResponse 9 none]
      ∧ (after (exec (.writeCompletion 2 3 true) (writing.holding 2 (work .write 9 false true)))).ctl.p = 1 := by decide

/-- A leg of a dual write alone, and the last legs of an orphan, of a detached write and of an attached one. -/
theorem test_writeCompletion_clauses :
    ((after (exec (.writeCompletion 2 3 false) writing)).slot 2).work = some (work .write 9 false true)
      ∧ after (exec (.writeCompletion 15 3 false) (ready.holding 15 { copyWork with stage := .orphan }))
        = (ready.holding 15 { copyWork with stage := .orphan }).freed 15
      ∧ after (exec (.writeCompletion 2 3 false) (ready.holding 2 { work .write 9 true false with owner := .upstream 9 false }))
        = (ready.holding 2 { work .write 9 true false with owner := .upstream 9 false }).freed 2 := by decide

/-- The first and the fourth consecutive timeout. -/
theorem test_mediaTimeout :
    (after (exec (.mediaTimeout 2) reading)).ctl.out = [.readFail 9 .mediaTimeout]
      ∧ ((after (exec (.mediaTimeout 2) reading)).slot 2).epoch = 4
      ∧ (after (exec (.mediaTimeout 2) { reading with media := { reading.media with timeouts := 3 } })).media.failed = true
      ∧ (after (exec (.mediaTimeout 2) { reading with media := { reading.media with timeouts := 3 } })).flag .mediaFailed = true := by
  decide

/-- The hypotheses of PhaseTimeoutFreesTheSlot, on both sides of the fourth timeout. -/
theorem test_mediaTimeout_hypotheses :
    (reading.slot 2).work = some (work .read 9 true false) ∧ reading.ctl.irq.find? (fun x => x.tag == 9) = some readEntry
      ∧ reading.media.failed = false ∧ reading.media.timeouts ≤ 3 ∧ reading.log.records.length < 31 := by decide

/-- Timeouts of a detached read, of a copy, of a patrol read and of a FREE slot, and the fourth one in a row over a migration. -/
theorem test_mediaTimeout_clauses :
    after (exec (.mediaTimeout 2) (ready.holding 2 { work .read 9 true false with owner := .upstream 9 false }))
        = (ready.holding 2 { work .read 9 true false with owner := .upstream 9 false }).timedOut 2
            { work .read 9 true false with owner := .upstream 9 false }
      ∧ (after (exec (.mediaTimeout 15) ((sparing .writing 3 0).holding 15 copyWork))).engine = none
      ∧ (after (exec (.mediaTimeout 15) ((patrolling .reading false 5).holding 15 { work .read 0 true false with owner := .patrol }))).patrol.cursor
        = 6
      ∧ after (exec (.mediaTimeout 0) ready) = ready
      ∧ (let s := (sparing .reading 3 0).holding 2 { work .read 9 true false with owner := .upstream 9 false }
        let t := after (exec (.mediaTimeout 2) { s with media := { s.media with timeouts := 3 } })
        t.engine = none ∧ t.patrol.state = .stopped
          ∧ t.log.records.map (fun r => r.body.kind) = [.mediaTimeout, .mediaFailed, .spareAborted]) := by decide +kernel

/-! ### Controller port -/

theorem test_request_overrun :
    (ready.queued []).ctl.linkUp = true
      ∧ after (exec (.lineRead 9 5) { ready with ctl := { ready.ctl with g := 0, p := 32 } })
          = State.count { ready with ctl := { ready.ctl with g := 0, p := 32 } } .creditOverruns := by decide

theorem test_request_duplicate :
    (reading.ctl.linkUp = true ∧ 1 ≤ reading.ctl.g ∧ ∃ e ∈ reading.ctl.irq, e.tag.toNat = (0x49 : Byte).toNat % 64)
      ∧ (after (exec (.lineRead 0x49 5) reading)).counter .protocolErrors = 1
      ∧ (after (exec (.lineRead 0x49 5) reading)).log.records.length = 1 := by decide

/-- The refusals at arrival: the gate, the FAILED port, the first line beyond visible capacity. -/
theorem test_request_refused :
    (after (exec (.lineRead 1 0) (ready.gated .quiescing))).ctl.out = [.readFail 1 .notOpen]
      ∧ (after (exec (.lineWrite 1 0 7) ready.failing)).ctl.out = [.writeResponse 1 (some .mediaFailed)]
      ∧ (after (exec (.lineMerge 1 67092480 7 1) ready)).ctl.out = [.writeResponse 1 (some .range)]
      ∧ 2048 * (32768 - ready.remap.s) = 67092480 := by decide +kernel

/-- The last visible line is accepted; a write of the in-copy line is HELD. -/
theorem test_request_accepted :
    (after (exec (.lineRead 1 67092479) ready)).ctl.irq = [{ tag := 1, kind := .read, line := 67092479, state := .waiting }]
      ∧ (after (exec (.lineWrite 1 205059 7) (sparing .reading 3 0))).ctl.irq
          = [{ tag := 1, kind := .write 7, line := 205059, state := .held }] := by decide +kernel

/-- An all-zero merge of a free line is answered at once (R85). -/
theorem test_lineMerge_zero :
    (after (exec (.lineMerge 1 5 7 0) ready)).ctl.out = [.writeResponse 1 none] ∧ (after (exec (.lineMerge 1 5 7 0) ready)).ctl.irq = [] := by
  decide +kernel

/-- All-zero merges at a grant attempt: none behind a CLOSED gate; the last one closes a QUIESCING gate; one behind a read of its line
stays. -/
theorem test_zeroMerges :
    let zero : IrqEntry := { tag := 3, kind := .merge 7 0, line := 5, state := .waiting }
    ((ready.gated .closed).answerZeroMerges = ready.gated .closed)
      ∧ ((ready.queued [zero]).gated .quiescing).answerZeroMerges.ctl.gate = .closed
      ∧ (ready.queued [{ readEntry with state := .waiting }, zero]).answerZeroMerges.ctl.irq
        = [{ readEntry with state := .waiting }, zero]
      ∧ (ready.queued [zero]).answerZeroMerges.ctl.out = [.writeResponse 3 none] := by decide +kernel

theorem test_credit :
    (ready.ctl.linkUp = true ∧ 1 ≤ { ready.ctl with g := 30, p := 2 }.p)
      ∧ (after (exec .credit { ready with ctl := { ready.ctl with g := 30, p := 2 } })).ctl.out = [.credit 2]
      ∧ (after (exec .credit { ready with ctl := { ready.ctl with g := 30, p := 2 } })).ctl.g = 32 := by decide

theorem test_linkReset :
    ((after (exec .linkReset reading)).slot 2).work = some { work .read 9 true false with owner := .upstream 9 false }
      ∧ (after (exec .linkReset reading)).ctl.g = 32 ∧ (after (exec .linkReset (reading.gated .quiescing))).flag .gateClosed = true := by
  decide

/-- The second request of line 5 waits behind the first; the request of line 6 is granted slot 0. -/
theorem test_slotGrant :
    (after (exec .slotGrant ((ready.queued [{ readEntry with state := .held },
        { tag := 10, kind := .read, line := 5, state := .waiting }, { tag := 11, kind := .read, line := 6, state := .waiting }])))).media.out
      = [.read 0 0 { bank := 0, row := 0, column := 6 }] := by decide

/-- The hypotheses of SlotGrantIssuesTheFirstPhase: a read, and a write of a line copied already, which is a dual write. -/
theorem test_slotGrant_hypotheses :
    (State.freeUpstream (ready.queued [{ readEntry with state := .waiting }]) = some 0
        ∧ State.oldestEligible (ready.queued [{ readEntry with state := .waiting }]) [] [{ readEntry with state := .waiting }]
          = some { readEntry with state := .waiting })
      ∧ State.oldestEligible (sparing .waitSlot 3 0) [] [{ writeEntry with line := 205056, state := .waiting }]
          = some { writeEntry with line := 205056, state := .waiting }
      ∧ (sparing .waitSlot 3 0).translateWrite 205056
          = ({ bank := 2, row := 100, column := 0 }, some { bank := 2, row := 32760, column := 0 }) := by decide +kernel

/-- A merge with all bytes issues its write, a partial one its read, behind a QUIESCING gate too; with the gate CLOSED, the port FAILED or
an empty queue nothing is granted. -/
theorem test_slotGrant_merges :
    let entry (mask : ByteMask) : IrqEntry := { tag := 3, kind := .merge 7 mask, line := 5, state := .waiting }
    (((after (exec .slotGrant ((ready.queued [entry (BitVec.allOnes 64)]).gated .quiescing))).slot 0).work.map Work.phase = some .write)
      ∧ ((after (exec .slotGrant (ready.queued [entry 1]))).slot 0).work.map Work.phase = some .read
      ∧ after (exec .slotGrant (ready.gated .closed)) = ready.gated .closed
      ∧ after (exec .slotGrant (ready.queued [entry 1]).failing) = (ready.queued [entry 1]).failing
      ∧ after (exec .slotGrant ready) = ready := by decide +kernel

theorem test_openGate :
    ready.answers .openGate [] = some .wrongState ∧ (ready.gated .quiescing).answers .openGate [] = some .wrongState
      ∧ (after (exec .openGate (State.reset.told []))).ctl.gate = .opened := by decide

theorem test_closeGate :
    (after (exec .closeGate (reading.told []))).ctl.gate = .quiescing ∧ (after (exec .closeGate (ready.told []))).ctl.gate = .closed
      ∧ (after (exec .closeGate (ready.told []))).flag .gateClosed = true
      ∧ (after (exec .closeGate (State.reset.told []))).flags = 0 := by decide

/-- The status bytes of a migration at its last line with the gate OPEN. -/
theorem test_getStatus :
    (after (exec .getStatus ((sparing .writing 127 2).told []))).mgmt.data.toList.take 21
      = [0x19, 0, 32, 0, 0, 0, 0, 8, 0, 0, 0, 0x80, 0, 127, 2, 2, 1, 0, 0, 0, 0] := by decide

/-- A warm reset over a read in flight answers it, advances the epoch and waits for the leg. -/
theorem test_warmReset :
    (after (exec .warmReset (reading.told []))).ctl.out = [.readFail 9 .reset, .credit 1]
      ∧ (after (exec .warmReset (reading.told []))).media.drain = some { legs := [{ slot := 2, epoch := 3, leg := false }], start := 0 }
      ∧ reading.answers .warmReset [] = none ∧ (ready.queued [readEntry]).answers .warmReset [] = some .ok := by decide

/-- The 50 µs bound of the drain, and a late leg that ends it. -/
theorem test_drainExpiry :
    (after (exec .drainExpiry (after (exec .warmReset (reading.told []))))).mgmt.running = none
      ∧ (after (exec .drainExpiry (after (exec .warmReset (reading.told []))))).us = 50
      ∧ (after (exec (.readCompletion 2 3 false { data := 0, check := 0 }) (after (exec .warmReset (reading.told []))))).media.drain = none := by
  decide

/-- The two legs of a dual write over a warm reset: the first leaves the record, the second ends the drain. -/
theorem test_drain_legs :
    let s := after (exec .warmReset (writing.told []))
    s.media.drain = some { legs := [{ slot := 2, epoch := 3, leg := false }, { slot := 2, epoch := 3, leg := true }], start := 0 }
      ∧ (after (exec (.writeCompletion 2 3 false) s)).media.drain = some { legs := [{ slot := 2, epoch := 3, leg := true }], start := 0 }
      ∧ (after (exec (.writeCompletion 2 3 true) (after (exec (.writeCompletion 2 3 false) s)))).mgmt.running = none := by decide

/-! ### Patrol -/

theorem test_start :
    (after (exec .start (ready.told [1]))).patrol.timer = some 100 ∧ ready.failing.answers .start [1] = some .wrongState
      ∧ (patrolling .reading false 0).answers .start [1] = some .ok
      ∧ (patrolling (.stopping .read) false 0).answers .start [1] = some .wrongState ∧ ready.answers .start [0] = some .badParam
      ∧ ready.answers .start [5] = some .badParam := by decide

theorem test_stop :
    ready.answers .stop [2] = some .ok ∧ (after (exec .stop ((patrolling .waiting true 0).told [2]))).patrol.state = .stopped
      ∧ (after (exec .stop ((patrolling .reading true 0).told [2]))).patrol.state = .stopping .read
      ∧ (after (exec .stop ((patrolling .writingBack true 0).told [2]))).patrol.state = .stopping .writeBack := by decide

theorem test_setInterval :
    ready.answers .setInterval [3, 0, 0] = some .badParam ∧ (after (exec .setInterval (ready.told [3, 0, 1]))).patrol.interval = 256 := by
  decide

/-- The first line beyond visible capacity (0x03FFC000) and the last within it. -/
theorem test_setCursor :
    ready.answers .setCursor [4, 0x00, 0xC0, 0xFF, 0x03] = some .badParam
      ∧ (after (exec .setCursor (ready.told [4, 0xFF, 0xBF, 0xFF, 0x03]))).patrol.cursor = 67092479
      ∧ (patrolling .waiting false 0).answers .setCursor [4] = some .wrongState := by decide

theorem test_patrolReadIssue :
    (after (exec .patrolReadIssue (patrolling .waiting true 67092479))).media.out
        = [.read 15 0 { bank := 15, row := 32759, column := 127 }]
      ∧ (after (exec .patrolReadIssue (patrolling .waiting true 0))).patrol.state = .reading := by decide

theorem test_intervalExpiry :
    (after (exec .intervalExpiry (patrolling .waiting false 0))).patrol.timer = some 200
      ∧ (after (exec .intervalExpiry (patrolling .writingBack false 0))).patrol.due = true
      ∧ (after (exec .intervalExpiry (patrolling .reading false 0))).patrol.timer = none := by decide

/-- The hypotheses of PatrolReadIssuesForAQuietLine, at the first and the last visible line. -/
theorem test_patrolReadIssue_hypotheses : ∀ line ∈ [0, 67092479],
    ((patrolling .waiting true line).policy (rowOf line)).scrub = true ∧ (patrolling .waiting true line).lineMigrating line = false
      ∧ (patrolling .waiting true line).copyReady = false ∧ ((patrolling .waiting true line).slot background).work = none
      ∧ (∀ i ∈ upstreamSlots, ((patrolling .waiting true line).slot i).onLine line = false)
      ∧ (patrolling .waiting true line).ctl.irq = [] ∧ line < 2048 * (32768 - 8) := by decide

/-- The choice: from line 5 past an unscrubbed region of 64 rows; after a wrap from the last stripe; and a double wrap. -/
theorem test_patrolChoice :
    let off := { ready with
      regions := Vector.ofFn fun i : Fin 8 => { limit := if i = 0 then 64 else 128, policy := { Policy.default with scrub := i ≠ 0 } }
      patrol := (patrolling .waiting true 5).patrol }
    off.choose = (off.moveCursor 131072, true)
      ∧ (let s := { off with patrol := { off.patrol with cursor := 67092479, sweepReads := 1 } }
        s.choose.1.patrol.cursor = 131072 ∧ s.choose.1.flag .sweepDone = true ∧ s.choose.1.counter .sweeps = 1)
      ∧ (let t := after (exec .patrolReadIssue { ready with patrol := (patrolling .waiting true 5).patrol })
        t.patrol.due = false ∧ t.patrol.cursor = 0 ∧ t.patrol.timer = some 100) := by decide

/-- The hypotheses at the top of sweep reads, and of the clauses in which nothing is issued: no step due, a line in use, a ready copy. -/
theorem test_patrolReadIssue_clauses :
    ({ (patrolling .waiting true 0).patrol with sweepReads := 67108864 }).sweepReads = 67108864
      ∧ after (exec .patrolReadIssue (patrolling .waiting false 0)) = patrolling .waiting false 0
      ∧ after (exec .patrolReadIssue ((patrolling .waiting true 5).queued [readEntry])) = (patrolling .waiting true 5).queued [readEntry]
      ∧ (sparing .waitSlot 3 0).copyReady = true := by decide

/-- The end of a step: in the middle, at the last visible line with a line read and with none, and out of STOPPING. -/
theorem test_endPatrolStep :
    (patrolling .reading false 5).endPatrolStep.patrol.cursor = 6
      ∧ (State.endPatrolStep { patrolling .writingBack true 67092479 with
          patrol := { (patrolling .writingBack true 67092479).patrol with sweepReads := 1 } }).flag .sweepDone = true
      ∧ (patrolling .writingBack true 67092479).endPatrolStep.flags = 0
      ∧ (patrolling (.stopping .read) false 5).endPatrolStep.patrol.state = .stopped := by decide

/-- The hypotheses of the patrol's completions: a line that needs a write-back and one that needs none; the completion of a write-back. -/
theorem test_patrolCompletion_hypotheses :
    let step (phase : Phase) : Work := { work phase 0 true false with owner := .patrol }
    (((patrolling .reading false 5).holding 15 (step .read)).slot background).work = some (step .read)
      ∧ (classify (changeSymbol (sealLine 7) 143 15)).1 = .corrected ∧ (classify (sealLine 7)).1 = .clean
      ∧ (after (exec (.writeCompletion 15 3 false) ((patrolling .writingBack false 5).holding 15 (step .write)))).patrol.cursor = 6
      ∧ (after (exec (.writeCompletion 15 3 false) ((patrolling .stopped false 5).holding 15 (step .write)))).patrol.cursor = 5 :=
  ⟨rfl, by rw [test_outcomes.2.2.1], by rw [test_outcomes.1], by decide, by decide⟩

/-! ### Log, counters and alert -/

/-- `ready` with one record in the log: the RANGE record of line 67092480. -/
def logged : State := after (exec (.lineRead 1 67092480) ready)

theorem test_readFault :
    (after (exec .readFault (logged.told []))).mgmt.data.toList.take 16
        = [0, 0, 0x11, 0x08, 0, 0, 0, 0, 0x00, 0xC0, 0xFF, 0x03, 0, 0, 0, 1]
      ∧ ready.answers .readFault [] = some .empty := by decide

theorem test_popFault :
    (after (exec .popFault (logged.told []))).log.records = [] ∧ logged.flag .logNonempty = true
      ∧ (after (exec .popFault (logged.told []))).flag .logNonempty = false ∧ ready.answers .popFault [] = some .empty := by decide

/-- A record of no line and no address. -/
def abortOffer : Offer :=
  { kind := .mediaFailed, time := 0, origin := .engine, injected := false, line := none, phys := none, slot := none, detail := 2 }

/-- `ready` with 32 records in the log: one more is lost. -/
def brimming : State :=
  { ready with log := { records := (List.range 32).map fun n => { seq := BitVec.ofNat 16 n, body := abortOffer }, nextSeq := 32 } }

theorem test_offerRecord_full :
    logged.log.records.length < 32 ∧ 32 ≤ brimming.log.records.length ∧ (brimming.offerRecord abortOffer).counter .logLost = 1
      ∧ (brimming.offerRecord abortOffer).flag .logOverflow = true ∧ (brimming.offerRecord abortOffer).log = brimming.log := by decide

theorem test_readCounters :
    ready.answers .readCounters [3, 0] = some .badParam ∧ ready.answers .readCounters [0, 2] = some .badParam
      ∧ (after (exec .readCounters ({ ready with counters := Vector.replicate 18 7 }.told [2, 1]))).counters[12] = 0
      ∧ (after (exec .readCounters ({ ready with counters := Vector.replicate 18 7 }.told [2, 1]))).counters[11] = 7
      ∧ (after (exec .readCounters ({ ready with counters := Vector.replicate 18 7 }.told [2, 1]))).mgmt.data[15] = 7 := by decide

theorem test_clearCounters :
    State.counters (after (exec .clearCounters ({ ready with counters := Vector.replicate 18 7 }.told []))) = Vector.replicate 18 0 := by
  decide

theorem test_setAlertMask :
    ready.answers .setAlertMask [0x00, 0x08] = some .badParam ∧ ready.answers .setAlertMask [0xFF, 0x07] = some .ok
      ∧ (after (exec .setAlertMask (logged.told [1, 0]))).alertLow = true
      ∧ (after (exec .setAlertMask (logged.told [2, 0]))).alertLow = false := by decide

/-! ### Laws: states that have them -/

theorem test_laws_of_a_migration :
    (resparing .reading 3 0).TableOk ∧ (resparing .reading 3 0).remap.SparesOk ∧ waitingRequests.QueueOk := by
  refine ⟨⟨by decide, by decide, by decide, nofun, ?_, ?_⟩, ⟨?_, by simp [resparing], by decide⟩, ⟨by decide, by decide, by decide⟩⟩
  · intro c hc
    cases hc
    exact ⟨homeEntry (.migrating (.spare 1)), by decide, rfl, rfl⟩
  · intro c hc
    cases hc
    decide
  · intro bank k
    by_cases hb : bank = 2
    · subst hb
      by_cases h0 : k = 0
      · subst h0; simp [resparing, Remap.spareState, RemapEntry.holds, homeEntry]
      · by_cases h1 : k = 1
        · subst h1; simp [resparing, Remap.spareState, RemapEntry.holds, homeEntry]
        · have h0' : ¬0 = k := fun h => h0 h.symm
          have h1' : ¬1 = k := fun h => h1 h.symm
          simp [resparing, Remap.spareState, RemapEntry.holds, homeEntry, h0', h1']
    · have hb' : ¬2 = bank := fun h => hb h.symm
      simp [resparing, Remap.spareState, RemapEntry.holds, homeEntry, hb']

theorem test_laws_of_the_reports :
    reading.creditsSum ∧ reading.ctl.Ok ∧ logged.log.Ok ∧ regioned.countersOk ∧ regioned.maskOk :=
  ⟨by unfold State.creditsSum; decide, ⟨by decide, by decide, by decide⟩, ⟨by decide, by decide⟩, by unfold State.countersOk; decide,
    by unfold State.maskOk; decide⟩

end Sys2Proof.Machine
end

section
/-! THEOREMS. Addresses and translation (R3, R8, R12, R57); the commands of the Watch List (R92, R102, R103). -/

namespace Sys2Proof.Machine

/-! ### A line address and its parts (R3) -/

theorem lineOf_rowOf_bankOf_columnOf (line : Nat) : lineOf (rowOf line) (bankOf line) (columnOf line) = line := by
  simp only [lineOf, rowOf, bankOf, columnOf]
  omega

theorem columnOf_lineOf {row bank column : Nat} (hc : column < 128) : columnOf (lineOf row bank column) = column := by
  simp only [columnOf, lineOf]
  omega

theorem bankOf_lineOf {row bank column : Nat} (hb : bank < 16) (hc : column < 128) :
    bankOf (lineOf row bank column) = bank := by
  simp only [bankOf, lineOf]
  omega

theorem rowOf_lineOf {row bank column : Nat} (hb : bank < 16) (hc : column < 128) :
    rowOf (lineOf row bank column) = row := by
  simp only [rowOf, lineOf]
  omega

/-- Settles O8: the parts are R3's by definition, and each direction of the recovery is arithmetic. -/
theorem lineAddressSplitsAndIsRecovered : Obligations.LineAddressSplitsAndIsRecovered :=
  ⟨fun line => ⟨rfl, rfl, rfl, lineOf_rowOf_bankOf_columnOf line⟩,
    fun _ _ _ hb hc => ⟨columnOf_lineOf hc, bankOf_lineOf hb hc, rowOf_lineOf hb hc⟩⟩

/-! ### Translation by the state of the entry (R8, R12, R57) -/

/-- The physical address at a line's bank and column in a physical row: translation chooses the row alone (R8). -/
def PhysAddr.onLine (line row : Nat) : PhysAddr := { bank := bankOf line, row := row, column := columnOf line }

theorem PhysAddr.onLine_lineOf {row bank column : Nat} (hb : bank < 16) (hc : column < 128) (p : Nat) :
    PhysAddr.onLine (lineOf row bank column) p = { bank := bank, row := p, column := column } := by
  simp only [PhysAddr.onLine, bankOf_lineOf hb hc, columnOf_lineOf hc]

section Translation

variable {s : State} {line : Nat}

/-- A row without an entry is served by its own physical row (R8). -/
theorem State.translate_of_find_none (h : s.remap.find (bankOf line) (rowOf line) = none) :
    s.translateRead line = (.onLine line (rowOf line), none) ∧ s.translateWrite line = (.onLine line (rowOf line), none) := by
  simp only [State.translateRead, State.translateWrite, h, PhysAddr.onLine, and_self]

/-- A row with an ACTIVE entry is served by the entry's destination (R8, R12). -/
theorem State.translate_of_active {slot : Nat} {e : RemapEntry}
    (h : s.remap.find (bankOf line) (rowOf line) = some (slot, e)) (active : e.state = .active) :
    s.translateRead line = (.onLine line (spareRowOf s.remap.s e.dest), none)
      ∧ s.translateWrite line = (.onLine line (spareRowOf s.remap.s e.dest), none) := by
  simp only [State.translateRead, State.translateWrite, h, active, PhysAddr.onLine, and_self]

/-- Below the cursor the lines of a MIGRATING row are copied: reads have the source to fall back on, writes go to both rows
(R12, R57). -/
theorem State.translate_below_cursor {slot : Nat} {e : RemapEntry} {source : Source}
    (h : s.remap.find (bankOf line) (rowOf line) = some (slot, e)) (migrating : e.state = .migrating source)
    (below : columnOf line < s.copyCursor) :
    s.translateRead line =
        (.onLine line (spareRowOf s.remap.s e.dest), some (.onLine line (sourceRow s.remap.s (rowOf line) source)))
      ∧ s.translateWrite line =
        (.onLine line (sourceRow s.remap.s (rowOf line) source), some (.onLine line (spareRowOf s.remap.s e.dest))) := by
  simp only [State.translateRead, State.translateWrite, h, migrating, below, if_true, PhysAddr.onLine, and_self]

/-- At or above the cursor the lines of a MIGRATING row stand in its source alone (R12, R57). -/
theorem State.translate_from_cursor {slot : Nat} {e : RemapEntry} {source : Source}
    (h : s.remap.find (bankOf line) (rowOf line) = some (slot, e)) (migrating : e.state = .migrating source)
    (beyond : s.copyCursor ≤ columnOf line) :
    s.translateRead line = (.onLine line (sourceRow s.remap.s (rowOf line) source), none)
      ∧ s.translateWrite line = (.onLine line (sourceRow s.remap.s (rowOf line) source), none) := by
  simp only [State.translateRead, State.translateWrite, h, migrating, Nat.not_lt.mpr beyond, if_false, PhysAddr.onLine, and_self]

end Translation

theorem State.copyCursor_of_engine {s : State} {c : EngineCtx} (h : s.engine = some c) : s.copyCursor = c.cursor := by
  simp only [State.copyCursor, h]

/-- Settles O10: by the entry that the search finds, its state, and the side of the cursor that the column is on. -/
theorem translationFollowsTheRemapTable : Obligations.TranslationFollowsTheRemapTable := by
  intro s row bank column hb hc line home
  have hbank : bankOf line = bank := bankOf_lineOf hb hc
  have hrow : rowOf line = row := rowOf_lineOf hb hc
  have hcol : columnOf line = column := columnOf_lineOf hc
  have addr : ∀ p, PhysAddr.onLine line p = { bank := bank, row := p, column := column } := PhysAddr.onLine_lineOf hb hc
  constructor
  · intro found
    rw [← hbank, ← hrow] at found
    simpa only [addr, hrow] using State.translate_of_find_none found
  · intro slot e found dest
    rw [← hbank, ← hrow] at found
    have dest_eq : dest = .onLine line (spareRowOf s.remap.s e.dest) := (addr _).symm
    rw [dest_eq]
    refine ⟨State.translate_of_active found, ?_⟩
    intro source c migrating engine from_
    have from_eq : from_ = .onLine line (sourceRow s.remap.s (rowOf line) source) := by
      rw [addr, hrow]
      cases source <;> rfl
    rw [from_eq, ← State.copyCursor_of_engine engine, ← hcol]
    exact ⟨State.translate_below_cursor found migrating, State.translate_from_cursor found migrating⟩

/-! ### Layouts of chapter 12 -/

theorem toList_of_vector_four {α : Type} (v : Vector α 4) : v.toList = [v[0], v[1], v[2], v[3]] := by
  refine List.ext_getElem v.length_toList fun i hi _ => ?_
  have bound : i < 4 := v.length_toList ▸ hi
  interval_cases i <;> simp

theorem leBytes_two (n : Nat) : leBytes 2 n = twoBytes n := rfl

theorem leBytes_four (n : Nat) : leBytes 4 n = fourBytes n := by
  simp only [leBytes, fourBytes, Nat.div_div_eq_div_mul]

/-- Below the spare rows the entry of the row itself decides the standing (R11). -/
theorem standing_code_of_original {r : Remap} {bank row : Nat} (h : row < visibleRows r.s) :
    (r.standing bank row).code = r.standingCode bank row := by
  have h' : row < 32768 - r.s := h
  have search : (r.table.find? fun x => decide (x.2.bank = bank ∧ x.2.row = row)) = r.find bank row := by
    simp only [Remap.find, Bool.decide_and, beq_eq_decide]
  simp only [Remap.standing, Remap.standingCode, if_pos h, if_pos h', search]
  cases r.find bank row with
  | none => rfl
  | some x =>
    cases hx : x.2.state with
    | active => simp [hx, Standing.code]
    | migrating source => cases source <;> simp [hx, Standing.code]

/-- A spare row stands by the entry whose destination it is, else by the one whose source it is (R11). -/
theorem standing_code_of_spare {r : Remap} {bank row : Nat} (h : ¬row < visibleRows r.s) :
    (r.standing bank row).code = r.standingCode bank row := by
  have h' : ¬row < 32768 - r.s := h
  have index : row - (32768 - r.s) = row - visibleRows r.s := rfl
  simp only [Remap.standing, Remap.standingCode, if_neg h, if_neg h', index, ← List.isSome_find?, Bool.decide_and,
    ← beq_eq_decide]
  cases r.table.find? fun x => x.2.bank == bank && x.2.dest == row - visibleRows r.s with
  | some x => rfl
  | none =>
    cases r.table.find? fun x => x.2.bank == bank && x.2.state == .migrating (.spare (row - visibleRows r.s)) with
    | some x => rfl
    | none => rfl

/-- The standing of a physical row has the code that R179 gives it (R11). -/
theorem standing_code (r : Remap) (bank row : Nat) : (r.standing bank row).code = r.standingCode bank row := by
  by_cases h : row < visibleRows r.s
  · exact standing_code_of_original h
  · exact standing_code_of_spare h

/-- The watch entry readout is the layout of R179. -/
theorem watchBytes_eq_watchReadout (s : State) (index : Nat) (e : WatchEntry) :
    s.watchBytes index e = s.watchReadout index e := by
  simp only [State.watchBytes, State.watchReadout, toList_of_vector_four, List.map, leBytes_two, leBytes_four, standing_code,
    byteOf, List.append_assoc, List.cons_append, List.nil_append]

/-! ### The commands of the Watch List -/

/-- Completing a BUSY command with a readout puts the readout into DATA and finishes it (R175, R178). -/
theorem busy_completeWith (s : State) (code : Byte) (p : Params) (b : List Byte) :
    (s.busy code p).completeWith b = (s.putData b).finished code .ok := rfl

section WatchCommands

variable {s : State} {p : Params}

theorem execReadWatch_of_takes (h : s.takes codeReadWatch p) :
    exec .readWatch s = .next ((s.busy codeReadWatch p).readWatch (paramByte p 0)) :=
  congrArg _ (runCommand_of_takes _ h)

theorem execSetThresholds_of_takes (h : s.takes codeSetThresholds p) :
    exec .setThresholds s = .next ((s.busy codeSetThresholds p).setThresholds (paramByte p 0) (paramByte p 1)
      (paramByte p 2) (paramByte p 3) (paramHalf p 4)) :=
  congrArg _ (runCommand_of_takes _ h)

end WatchCommands

/-- READ_WATCH of an index above 63 (R103). -/
theorem State.readWatch_badParam (s : State) {index : Nat} (h : 63 < index) : s.readWatch index = s.complete .badParam :=
  if_pos h

/-- READ_WATCH past the last entry (R103). -/
theorem State.readWatch_notFound (s : State) {index : Nat} (h : index ≤ 63) (past : s.watch.entries.length ≤ index) :
    s.readWatch index = s.complete .notFound := by
  have inside : ¬Config.watchPlaces ≤ index := Nat.not_le.mpr (Nat.lt_succ_of_le h)
  simp only [State.readWatch, if_neg inside, List.getElem?_eq_none past]

/-- READ_WATCH of an entry (R103). -/
theorem State.readWatch_entry (s : State) {index : Nat} (h : index ≤ 63) (found : index < s.watch.entries.length) :
    s.readWatch index = s.completeWith (s.watchBytes index s.watch.entries[index]) := by
  have inside : ¬Config.watchPlaces ≤ index := Nat.not_le.mpr (Nat.lt_succ_of_le h)
  simp only [State.readWatch, if_neg inside, List.getElem?_eq_getElem found]

/-- READ_WATCH's three answers (R103). -/
theorem exec_readWatch {s : State} {p : Params} (h : s.takes codeReadWatch p) :
    (63 < paramByte p 0 → exec .readWatch s = .next (s.finished codeReadWatch .badParam))
    ∧ (paramByte p 0 ≤ 63 → s.watch.entries.length ≤ paramByte p 0 →
      exec .readWatch s = .next (s.finished codeReadWatch .notFound))
    ∧ ∀ (found : paramByte p 0 < s.watch.entries.length), paramByte p 0 ≤ 63 →
      exec .readWatch s =
        .next ((s.putData (s.watchBytes (paramByte p 0) s.watch.entries[paramByte p 0])).finished codeReadWatch .ok) := by
  rw [execReadWatch_of_takes h]
  refine ⟨fun above => ?_, fun inside past => ?_, fun found inside => ?_⟩
  · rw [State.readWatch_badParam _ above, busy_complete]
  · rw [State.readWatch_notFound (s.busy codeReadWatch p) inside past, busy_complete]
  · rw [State.readWatch_entry (s.busy codeReadWatch p) inside found, busy_completeWith]
    rfl

/-- CLEAR_WATCH leaves the classes, the period and the timer (R102). -/
theorem exec_clearWatch {s : State} {p : Params} (h : s.takes codeClearWatch p) :
    exec .clearWatch s = .next (State.finished { s with watch := { s.watch with entries := [] } } codeClearWatch .ok) :=
  congrArg _ (runCommand_of_takes _ h)

/-- SET_THRESHOLDS with a threshold of 0, and without (R92). -/
theorem exec_setThresholds {s : State} {p : Params} (h : s.takes codeSetThresholds p) :
    let zero := paramByte p 0 = 0 ∨ paramByte p 1 = 0 ∨ paramByte p 2 = 0 ∨ paramByte p 3 = 0
    let period := paramByte p 4 + 256 * paramByte p 5
    (zero → exec .setThresholds s = .next (s.finished codeSetThresholds .badParam))
    ∧ (¬zero → exec .setThresholds s = .next (State.finished
        { s with watch :=
          { s.watch with
            thresholds := #v[paramByte p 0, paramByte p 1, paramByte p 2, paramByte p 3], period := period
            nextExpiry := if period = 0 then none else some (s.us + 1000 * period) } } codeSetThresholds .ok)) := by
  intro zero period
  rw [execSetThresholds_of_takes h]
  refine ⟨fun hz => ?_, fun hz => ?_⟩
  · rw [State.setThresholds, if_pos hz, busy_complete]
  · rw [State.setThresholds, if_neg hz]
    rfl

/-- Settles O45: each command from its taking, and the readout from the layout of R179. -/
theorem watchCommandsReadClearAndSet : Obligations.WatchCommandsReadClearAndSet :=
  ⟨fun _ _ => ⟨exec_readWatch, exec_clearWatch⟩, fun _ _ => exec_setThresholds, watchBytes_eq_watchReadout⟩

end Sys2Proof.Machine
end

section
/-! THEOREMS. The region table and its commands (R15, R16, R21 to R23); COLD_RESET and the laws of its state; what every step keeps of
the fault log, the regions, the counters and the alert mask (R15, R162, R166, R171). -/

namespace Sys2Proof.Machine

/-! ### Laws along a step -/

/-- A step is a tick of the time base on an empty queue, or the front command on the queue's rest (LOG 1). -/
theorem step_cases {s t : State} (h : step s = .next t) :
    s.pending = [] ∧ t = { s with us := s.us + 1 }
      ∨ ∃ c rest, s.pending = c :: rest ∧ exec c { s with pending := rest } = .next t := by
  unfold step at h
  split at h
  · rename_i empty
    exact .inl ⟨empty, (Host.Outcome.next.inj h).symm⟩
  · rename_i c rest front
    exact .inr ⟨c, rest, front, h⟩

/-- A law that reads neither the time base nor the queue of commands is kept by every step if every command keeps it. -/
theorem step_keeps {P : State → Prop} (tick : ∀ s us, P s → P { s with us := us })
    (queue : ∀ s rest, P s → P { s with pending := rest }) (command : ∀ c s t, P s → exec c s = .next t → P t) :
    ∀ s t, P s → step s = .next t → P t := by
  intro s t law h
  rcases step_cases h with ⟨-, rfl⟩ | ⟨c, rest, -, h⟩
  · exact tick _ _ law
  · exact command _ _ _ (queue _ rest law) h

/-- A law that each change keeps is kept by a chain of changes. -/
theorem chain_keeps {α : Type} {change : α → α → Prop} {P : α → Prop} (keeps : ∀ x y, change x y → P x → P y) {a b : α}
    (h : Relation.ReflTransGen change a b) (law : P a) : P b := by
  induction h with
  | refl => exact law
  | tail _ last ih => exact keeps _ _ last ih

/-! ### The fault log and the counters (R162, R166) -/

theorem Log.ok_empty (n : BitVec 16) : Log.Ok { records := [], nextSeq := n } := ⟨Nat.zero_le _, by nofun⟩

/-- A record stored takes the next number, and the distance of every older one to the next number grows by one. -/
theorem Log.Ok.store {l : Log} (h : l.Ok) (o : Offer) (room : l.records.length < 32) :
    Log.Ok { records := l.records ++ [{ seq := l.nextSeq, body := o }], nextSeq := l.nextSeq + 1 } := by
  refine ⟨by simpa using room, fun i hi => ?_⟩
  have hi' : i < l.records.length + 1 := by simpa using hi
  rcases Nat.lt_succ_iff_lt_or_eq.mp hi' with old | rfl
  · have number := h.consecutive i old
    have distance : l.records.length + 1 - i = l.records.length - i + 1 := by omega
    simp only [List.length_append, List.length_singleton, List.getElem_append_left old, distance, ← number]
    rw [BitVec.ofNat_add, BitVec.add_assoc]
    rfl
  · simp

/-- A head record popped leaves the numbers of the others and their distances to the next number. -/
theorem Log.Ok.pop {r : FaultRecord} {rest : List FaultRecord} {n : BitVec 16}
    (h : Log.Ok { records := r :: rest, nextSeq := n }) : Log.Ok { records := rest, nextSeq := n } := by
  refine ⟨Nat.le_of_succ_le h.few, fun i hi => ?_⟩
  simpa using h.consecutive (i + 1) (Nat.succ_lt_succ hi)

theorem ReportStep.keeps_log {a b : Reports} (h : ReportStep a b) (law : a.1.Ok) : b.1.Ok := by
  cases h with
  | store l v o room => exact law.store o room
  | count => exact law
  | pop l v r rest head =>
    obtain ⟨records, next⟩ := l
    obtain rfl : records = r :: rest := head
    exact law.pop
  | clear => exact law
  | reset => exact Log.ok_empty 0

/-- Eighteen counters within their range (R166). -/
def CountersOk (v : Vector Nat 18) : Prop := ∀ k : Fin 18, v[k] ≤ 65535

theorem State.countersOk_iff (s : State) : s.countersOk ↔ CountersOk s.counters := Iff.rfl

theorem CountersOk.zero : CountersOk (Vector.replicate 18 0) := fun k => by simp

theorem CountersOk.count {v : Vector Nat 18} (h : CountersOk v) (k : Fin 18) :
    CountersOk (v.set k (min (v[k] + 1) 65535)) := by
  intro j
  simp only [Fin.getElem_fin, Vector.getElem_set]
  split
  · exact Nat.min_le_right _ _
  · exact h j

theorem ReportStep.keeps_counters {a b : Reports} (h : ReportStep a b) (law : CountersOk a.2) : CountersOk b.2 := by
  cases h with
  | store | pop => exact law
  | count l v k => exact law.count k
  | clear l v d cleared =>
    intro k
    rcases cleared k with zero | same
    · simp [zero]
    · exact same ▸ law k
  | reset => exact CountersOk.zero

theorem exec_keeps_log {c : Instr} {s t : State} (law : s.log.Ok) (h : exec c s = .next t) : t.log.Ok :=
  chain_keeps (P := fun r : Reports => r.1.Ok) (fun _ _ => ReportStep.keeps_log) (exec_reports h) law

theorem exec_keeps_countersOk {c : Instr} {s t : State} (law : s.countersOk) (h : exec c s = .next t) : t.countersOk :=
  t.countersOk_iff.mpr (chain_keeps (P := fun r : Reports => CountersOk r.2) (fun _ _ => ReportStep.keeps_counters)
    (exec_reports h) (s.countersOk_iff.mp law))

/-! ### The region table (R15, R16) -/

/-- A region replaced by one whose limit lies between its neighbours' leaves the limits in order (R22). -/
theorem RegionsOk.set {r : Vector Region 8} (h : RegionsOk r) {i : Nat} (hi : i < 8) {g : Region}
    (above : ∀ j : Fin 8, j.val + 1 = i → r[j].limit ≤ g.limit) (below : ∀ j : Fin 8, j.val = i + 1 → g.limit ≤ r[j].limit)
    (bounded : g.limit ≤ 32768) : RegionsOk (r.set i g hi) := by
  have lower : ∀ j : Fin 8, j.val < i → r[j].limit ≤ g.limit := fun j hj =>
    (h.ordered j ⟨i - 1, by omega⟩ (Fin.le_def.mpr (Nat.le_sub_one_of_lt hj))).trans (above ⟨i - 1, by omega⟩ (by simp; omega))
  have upper : ∀ j : Fin 8, i < j.val → g.limit ≤ r[j].limit := fun j hj =>
    (below ⟨i + 1, by omega⟩ rfl).trans (h.ordered ⟨i + 1, by omega⟩ j (Fin.le_def.mpr hj))
  constructor
  · intro j k hjk
    have order := h.ordered j k hjk
    have hjk' : j.val ≤ k.val := hjk
    simp only [Fin.getElem_fin, Vector.getElem_set] at *
    split <;> split
    · exact le_rfl
    · exact upper k (by omega)
    · exact lower j (by omega)
    · exact order
  · intro j
    simp only [Fin.getElem_fin, Vector.getElem_set]
    split
    · exact bounded
    · exact h.bounded j

/-- The limit below a region: that of the region before it, 0 for region 0 (R16). -/
theorem State.lowerBound_eq (s : State) (i : Nat) :
    s.lowerBound i = if i = 0 then 0 else ((s.regions.toList[i - 1]?).map Region.limit).getD 0 := by
  cases i <;> rfl

theorem toList_getElem?_limit (r : Vector Region 8) {i : Nat} (h : i < 8) (d : Nat) :
    ((r.toList[i]?).map Region.limit).getD d = r[i].limit := by
  simp [h]

theorem State.lowerBound_fin (s : State) (i : Fin 8) :
    s.lowerBound i = if i.val = 0 then 0 else s.regions[i.val - 1].limit := by
  rw [State.lowerBound_eq, toList_getElem?_limit]

/-- The limit above a region: that of the region after it, 32,768 for region 7 (R22). -/
theorem State.upperBound_eq (s : State) {i : Nat} (h : i ≤ 7) :
    s.upperBound i = if i = 7 then 32768 else ((s.regions.toList[i + 1]?).map Region.limit).getD 0 := by
  unfold State.upperBound
  split
  · rename_i last
    subst last
    simp
  · rw [toList_getElem?_limit _ (by omega), toList_getElem?_limit _ (by omega)]

/-- A row within region i's bounds is below no earlier limit, so the search of the governing policy ends on region i (R16). -/
theorem State.policy_of_region {s : State} {row : Nat} (law : RegionsOk s.regions) (i : Fin 8)
    (lower : (if i.val = 0 then 0 else s.regions[i.val - 1].limit) ≤ row) (upper : row < s.regions[i].limit) :
    s.policy row = s.regions[i].policy := by
  have before : ∀ j : Fin 8, j.val < i.val → s.regions[j].limit ≤ row := by
    intro j hj
    rw [if_neg (by omega)] at lower
    exact (law.ordered j ⟨i.val - 1, by omega⟩ (Fin.le_def.mpr (Nat.le_sub_one_of_lt hj))).trans lower
  have found : s.regions.toList.find? (fun g => row < g.limit) = some s.regions[i] := by
    refine List.find?_eq_some_iff_getElem.mpr ⟨by simpa using upper, i.val, by simp, by simp, fun j hj => ?_⟩
    simpa using before ⟨j, by omega⟩ hj
  simp only [State.policy, governing, found]

/-- A row at or above the last limit is below no limit, and the default policy governs it (R16, R18). -/
theorem State.policy_above_regions {s : State} {row : Nat} (law : RegionsOk s.regions) (above : s.regions[7].limit ≤ row) :
    s.policy row = Policy.default := by
  have missed : s.regions.toList.find? (fun g => row < g.limit) = none := by
    refine List.find?_eq_none.mpr fun g member => ?_
    obtain ⟨j, hj, rfl⟩ := List.getElem_of_mem member
    have hj' : j < 8 := by simpa using hj
    simpa using (law.ordered ⟨j, hj'⟩ 7 (Fin.le_def.mpr (Nat.le_of_lt_succ hj'))).trans above
  simp only [State.policy, governing, missed]

/-- Settles O9: by the region whose bounds hold the row. -/
theorem regionLimitsDecideThePolicy : Obligations.RegionLimitsDecideThePolicy :=
  fun _ _ law => ⟨State.policy_of_region law, State.policy_above_regions law⟩

/-! ### SET_REGION and READ_REGION (R21 to R23) -/

section RegionCommands

variable {s : State} {p : Params} {index limit : Nat}

theorem onOff_eq (n : Nat) : onOff n = if n ≤ 1 then some (n == 1) else none := by
  match n with
  | 0 | 1 => rfl
  | n + 2 => simp [onOff]

theorem ueResponseOf_eq (n : Nat) : ueResponseOf n = if n ≤ 1 then some (if n = 0 then .poison else .fail) else none := by
  match n with
  | 0 | 1 => rfl
  | n + 2 => simp [ueResponseOf]

/-- The parameters name six attributes: four switches, a UE_RESPONSE and a threshold class in range (R21, R178). -/
def attributesValid (p : Params) : Prop :=
  paramByte p 3 ≤ 1 ∧ paramByte p 4 ≤ 1 ∧ paramByte p 5 ≤ 1 ∧ paramByte p 6 ≤ 1 ∧ paramByte p 7 ≤ 1 ∧ paramByte p 8 ≤ 3

theorem attributesOf_of_valid (h : attributesValid p) : attributesOf p = some
    { scrub := paramByte p 3 == 1, autospare := paramByte p 4 == 1, ueSpare := paramByte p 5 == 1
      ueResponse := if paramByte p 6 = 0 then .poison else .fail, ceLog := paramByte p 7 == 1
      cls := Fin.ofNat 4 (paramByte p 8) } := by
  obtain ⟨h3, h4, h5, h6, h7, h8⟩ := h
  have cls : paramByte p 8 < 4 := Nat.lt_succ_of_le h8
  simp [attributesOf, onOff_eq, ueResponseOf_eq, h3, h4, h5, h6, h7, cls, Fin.ofNat, Nat.mod_eq_of_lt cls]

theorem attributesOf_of_not_valid (h : ¬attributesValid p) : attributesOf p = none := by
  unfold attributesOf
  split
  · rename_i h3 h4 h5 h6 h7
    simp only [onOff_eq, ueResponseOf_eq, Option.ite_none_right_eq_some] at h3 h4 h5 h6 h7
    exact dif_neg fun h8 => h ⟨h3.left, h4.left, h5.left, h6.left, h7.left, Nat.le_of_lt_succ h8⟩
  · rfl

/-- SET_REGION of a refused value (R21). -/
theorem State.setRegion_refused {a : Option Policy} (h : a = none ∨ 7 < index ∨ 32768 < limit) :
    s.setRegion index limit a = s.complete .badParam := by
  cases a with
  | none => rfl
  | some policy =>
    have out : 7 < index ∨ 32768 < limit := h.resolve_left (Option.some_ne_none policy)
    by_cases inside : index < 8
    · have large : 32768 < limit := by omega
      simp only [State.setRegion, dif_pos inside, if_pos large]
    · simp only [State.setRegion, dif_neg inside]

/-- SET_REGION of a limit outside its neighbours' (R22). -/
theorem State.setRegion_misplaced {policy : Policy} (inside : index ≤ 7) (bounded : limit ≤ 32768)
    (h : limit < s.lowerBound index ∨ s.upperBound index < limit) :
    s.setRegion index limit (some policy) = s.complete .badOrder := by
  simp only [State.setRegion, dif_pos (Nat.lt_succ_of_le inside), if_neg (Nat.not_lt.mpr bounded), if_pos h]

/-- SET_REGION of a limit between its neighbours' (R21, R22). -/
theorem State.setRegion_placed {policy : Policy} (inside : index ≤ 7) (bounded : limit ≤ 32768)
    (lower : s.lowerBound index ≤ limit) (upper : limit ≤ s.upperBound index) :
    s.setRegion index limit (some policy) =
      State.complete { s with regions := s.regions.set index { limit := limit, policy := policy } (Nat.lt_succ_of_le inside) }
        .ok := by
  have placed : ¬(limit < s.lowerBound index ∨ s.upperBound index < limit) := by omega
  simp only [State.setRegion, dif_pos (Nat.lt_succ_of_le inside), if_neg (Nat.not_lt.mpr bounded), if_neg placed]

theorem execSetRegion_of_takes (h : s.takes codeSetRegion p) :
    exec .setRegion s =
      .next ((s.busy codeSetRegion p).setRegion (paramByte p 0) (paramHalf p 1) (attributesOf p)) :=
  congrArg _ (runCommand_of_takes _ h)

theorem execReadRegion_of_takes (h : s.takes codeReadRegion p) :
    exec .readRegion s = .next ((s.busy codeReadRegion p).readRegion (paramByte p 0)) :=
  congrArg _ (runCommand_of_takes _ h)

end RegionCommands

theorem vector_set_eq_setIfInBounds {α : Type} {n : Nat} (v : Vector α n) {i : Nat} (h : i < n) (x : α) :
    v.set i x h = v.setIfInBounds i x :=
  Vector.ext fun j hj => by rw [Vector.getElem_set, Vector.getElem_setIfInBounds]

/-- Settles O11: the taking, by the check that the values fail first. -/
theorem setRegionChecksThenReplaces : Obligations.SetRegionChecksThenReplaces := by
  intro s p h i limit valid lower upper
  have lower_eq : (s.busy codeSetRegion p).lowerBound i = lower := State.lowerBound_eq _ i
  have upper_eq (inside : i ≤ 7) : (s.busy codeSetRegion p).upperBound i = upper := State.upperBound_eq _ inside
  rw [execSetRegion_of_takes h]
  refine ⟨fun refused => ?_, fun accepted misplaced => ?_, fun accepted above below => ?_⟩
  · have cause : attributesOf p = none ∨ 7 < i ∨ 32768 < limit := by
      by_cases attributes : attributesValid p
      · have : ¬(i ≤ 7 ∧ limit ≤ 32768) := fun ⟨hi, hl⟩ => refused ⟨hi, hl, attributes⟩
        omega
      · exact .inl (attributesOf_of_not_valid attributes)
    rw [State.setRegion_refused cause, busy_complete]
  · obtain ⟨inside, bounded, attributes⟩ := accepted
    rw [attributesOf_of_valid attributes,
      State.setRegion_misplaced inside bounded (by rwa [lower_eq, upper_eq inside]), busy_complete]
  · obtain ⟨inside, bounded, attributes⟩ := accepted
    rw [attributesOf_of_valid attributes,
      State.setRegion_placed inside bounded (by rwa [lower_eq]) (by rwa [upper_eq inside]),
      vector_set_eq_setIfInBounds]
    rfl

theorem UeResponse.code_eq (u : UeResponse) : u.code = if u = .poison then 0 else 1 := by
  cases u <;> rfl

/-- READ_REGION above the last index (R23). -/
theorem State.readRegion_badParam (s : State) {index : Nat} (h : 7 < index) : s.readRegion index = s.complete .badParam :=
  dif_neg (by omega)

/-- READ_REGION of a region (R23). -/
theorem State.readRegion_region (s : State) (i : Fin 8) : s.readRegion i = s.completeWith (s.regionBytes i s.regions[i]) :=
  dif_pos i.isLt

/-- Settles O12: the region found by its index, and the readout part by part. -/
theorem readRegionReadsOut : Obligations.ReadRegionReadsOut := by
  intro s p h
  rw [execReadRegion_of_takes h]
  refine ⟨fun above => ?_, fun i found => ?_⟩
  · rw [State.readRegion_badParam _ above, busy_complete]
  · intro g lower visible
    rw [found, State.readRegion_region, busy_completeWith]
    simp only [State.regionBytes, State.lowerBound_fin, UeResponse.code_eq]
    rfl

/-! ### What every step keeps of the region table and the alert mask (R15, R171) -/

/-- The laws of what SET_REGION and SET_ALERT_MASK set (R15, R171). -/
def State.SettingsOk (s : State) : Prop := RegionsOk s.regions ∧ s.maskOk

theorem State.lowerBound_next (s : State) {i : Nat} (j : Fin 8) (h : j.val + 1 = i) : s.lowerBound i = s.regions[j].limit := by
  subst h
  exact toList_getElem?_limit _ j.isLt 0

theorem State.upperBound_previous (s : State) {i : Nat} (j : Fin 8) (h : j.val = i + 1) :
    s.upperBound i = s.regions[j].limit := by
  have bound : i + 1 < 8 := h ▸ j.isLt
  simp only [Fin.getElem_fin, h]
  exact toList_getElem?_limit s.regions bound 32768

theorem State.setRegion_keeps_settings {s : State} (index limit : Nat) (a : Option Policy) (law : s.SettingsOk) :
    (s.setRegion index limit a).SettingsOk := by
  by_cases refused : a = none ∨ 7 < index ∨ 32768 < limit
  · rw [State.setRegion_refused refused]
    exact law
  · obtain ⟨valid, inside, bounded⟩ : a ≠ none ∧ index ≤ 7 ∧ limit ≤ 32768 := by
      simpa only [not_or, Nat.not_lt] using refused
    obtain ⟨policy, rfl⟩ := Option.ne_none_iff_exists'.mp valid
    by_cases misplaced : limit < s.lowerBound index ∨ s.upperBound index < limit
    · rw [State.setRegion_misplaced inside bounded misplaced]
      exact law
    · obtain ⟨lower, upper⟩ : s.lowerBound index ≤ limit ∧ limit ≤ s.upperBound index := by
        simpa only [not_or, Nat.not_lt] using misplaced
      obtain ⟨regions, mask⟩ := law
      have placed := regions.set (Nat.lt_succ_of_le inside) (g := { limit := limit, policy := policy })
        (fun j hj => s.lowerBound_next j hj ▸ lower) (fun j hj => s.upperBound_previous j hj ▸ upper) bounded
      rw [State.setRegion_placed inside bounded lower upper]
      exact ⟨placed, mask⟩

theorem State.setAlertMask_keeps_settings {s : State} (m : BitVec 16) (law : s.SettingsOk) :
    (s.setAlertMask m).SettingsOk := by
  obtain ⟨regions, mask⟩ := law
  unfold State.setAlertMask
  split
  · rename_i named
    exact ⟨regions, named⟩
  · exact ⟨regions, mask⟩

theorem RegionsOk.reset : RegionsOk State.reset.regions := ⟨by decide, by decide⟩

theorem State.maskOk_reset : State.reset.maskOk := by
  unfold State.maskOk
  decide

theorem runCommand_keeps_settings {s : State} {code : Byte} {take : Params → State → State}
    (taking : ∀ p (s : State), s.SettingsOk → (take p s).SettingsOk) (law : s.SettingsOk) :
    (s.runCommand code take).SettingsOk :=
  runCommand_keeps (fun _ _ law => law) (fun _ _ law => law) taking law

theorem exec_keeps_settingsOk {c : Instr} {s t : State} (law : s.SettingsOk) (h : exec c s = .next t) : t.SettingsOk := by
  cases c
  case setRegion =>
    obtain rfl := Host.Outcome.next.inj h
    exact runCommand_keeps_settings (fun _ _ => State.setRegion_keeps_settings _ _ _) law
  case setAlertMask =>
    obtain rfl := Host.Outcome.next.inj h
    exact runCommand_keeps_settings (fun _ _ => State.setAlertMask_keeps_settings _) law
  case coldReset =>
    obtain rfl := Host.Outcome.next.inj h
    exact ⟨RegionsOk.reset, State.maskOk_reset⟩
  all_goals
    obtain ⟨regions, mask⟩ := exec_keeps_settings (by nofun) (by nofun) (by nofun) h
    unfold State.SettingsOk State.maskOk
    rw [regions, mask]
    exact law

/-- Settles O56: the log and the counters by the chain of changes of a command, the regions and the mask by the two commands that
set them. -/
theorem stepKeepsLogRegionsCountersAndMask : Obligations.StepKeepsLogRegionsCountersAndMask := by
  constructor
  · exact step_keeps (P := fun s => s.log.Ok) (fun _ _ law => law) (fun _ _ law => law) fun _ _ _ => exec_keeps_log
  · refine step_keeps (P := fun s => RegionsOk s.regions ∧ s.countersOk ∧ s.maskOk) (fun _ _ law => law) (fun _ _ law => law) ?_
    intro c s t ⟨regions, counters, mask⟩ h
    obtain ⟨regions', mask'⟩ : t.SettingsOk := exec_keeps_settingsOk ⟨regions, mask⟩ h
    exact ⟨regions', exec_keeps_countersOk counters h, mask'⟩

/-! ### COLD_RESET and the laws of its state (R18, R35, R90, R119, R172) -/

theorem reservationOfStrap_eq (spr : BitVec 3) : reservationOfStrap spr =
    if spr = 0 then 0 else if spr = 1 then 8 else if spr = 2 then 16 else if spr = 3 then 32 else 64 := by
  revert spr
  decide

/-- Settles O3: the reset state with S from its strap, field by field. -/
theorem coldResetGivesTheInitialState : Obligations.ColdResetGivesTheInitialState := by
  intro spr ma s
  rw [← reservationOfStrap_eq]
  rfl

theorem Ctl.ok_reset : State.reset.ctl.Ok := ⟨List.nodup_nil, fun _ => rfl, List.Pairwise.nil⟩

theorem Watch.ok_reset : State.reset.watch.Ok := ⟨Nat.zero_le _, List.nodup_nil, by nofun, by decide⟩

theorem State.queueOk_reset : State.reset.QueueOk := ⟨Nat.zero_le _, List.nodup_nil, by nofun⟩

theorem State.tableOk_reset : State.reset.TableOk := ⟨.nil, by nofun, .nil, by nofun, by nofun, by nofun⟩

/-- At reset every spare is FREE and no entry holds one (R26, R30). -/
theorem Remap.sparesOk_reset : State.reset.remap.SparesOk := ⟨fun _ _ => ⟨by nofun, by nofun⟩, .nil, by nofun⟩

/-- Settles O53: each law of an empty log, queue, list or table, and of the reset values. -/
theorem lawsHoldAtReset : Obligations.LawsHoldAtReset :=
  ⟨rfl, Ctl.ok_reset, Log.ok_empty 0, Watch.ok_reset, RegionsOk.reset, State.queueOk_reset, State.tableOk_reset,
    Remap.sparesOk_reset, CountersOk.zero, State.maskOk_reset⟩

end Sys2Proof.Machine
end

section
/-! THEOREMS. The Remap Table, the pools and the Migration Engine stay in step over every step of the part (R26, R28, R30, R52). -/

namespace Sys2Proof.Machine

/-! ### One slot of the table replaced (R26, R27) -/

/-- In a table in slot order, a relation holds between each pair of entries when it holds between entries of different slots. -/
theorem pairwise_iff_of_rises {t : List (Nat × RemapEntry)} {R : Nat × RemapEntry → Nat × RemapEntry → Prop}
    (symm : ∀ x y, R x y → R y x) (rises : t.Pairwise fun x y => x.1 < y.1) :
    t.Pairwise R ↔ ∀ x ∈ t, ∀ y ∈ t, x.1 ≠ y.1 → R x y := by
  constructor
  · intro h x hx y hy differ
    have : Std.Symm R := ⟨symm⟩
    exact h.forall hx hy fun same => differ (same ▸ rfl)
  · exact fun h => rises.imp_of_mem fun hx hy less => h _ hx _ hy (Nat.ne_of_lt less)

/-- In a table in slot order a slot has one entry. -/
theorem slot_unique {t : List (Nat × RemapEntry)} (rises : t.Pairwise fun x y => x.1 < y.1) {x y : Nat × RemapEntry}
    (hx : x ∈ t) (hy : y ∈ t) (same : x.1 = y.1) : x = y :=
  List.inj_on_of_nodup_map (List.pairwise_map.mpr (rises.imp Nat.ne_of_lt)) hx hy same

/-- A FREE slot is listed nowhere in the table. -/
theorem entryAt_none_iff {r : Remap} {n : Nat} : r.entryAt n = none ↔ ∀ x ∈ r.table, x.1 ≠ n := by
  simp [Remap.entryAt]

/-- In a table in slot order a slot's entry is the one that the table lists for it. -/
theorem entryAt_iff_mem {r : Remap} (rises : r.table.Pairwise fun x y => x.1 < y.1) {n : Nat} {e : RemapEntry} :
    r.entryAt n = some e ↔ (n, e) ∈ r.table := by
  refine ⟨mem_of_entryAt, fun member => ?_⟩
  cases found : r.entryAt n with
  | none => exact absurd rfl (entryAt_none_iff.mp found _ member)
  | some e' =>
    have same : (n, e') = (n, e) := slot_unique rises (mem_of_entryAt found) member rfl
    exact congrArg (some ·.2) same

/-- `t'` is the table `t` with what slot `n` holds replaced by `new`; none: the slot is FREE. -/
structure Replaced (t : List (Nat × RemapEntry)) (n : Nat) (new : Option RemapEntry) (t' : List (Nat × RemapEntry)) : Prop where
  rises : t'.Pairwise fun x y => x.1 < y.1
  mem : ∀ x, x ∈ t' ↔ (x.1 = n ∧ new = some x.2) ∨ (x ∈ t ∧ x.1 ≠ n)

namespace Replaced

variable {t t' : List (Nat × RemapEntry)} {n : Nat} {new : Option RemapEntry}

theorem put (e : RemapEntry) (rises : t.Pairwise fun x y => x.1 < y.1) : Replaced t n (some e) (putEntry n e t) := by
  refine ⟨putEntry_rises rises, fun x => ?_⟩
  have same : x = (n, e) ↔ x.1 = n ∧ some e = some x.2 := by simp [Prod.ext_iff, eq_comm (a := e)]
  rw [mem_putEntry_iff rises, same]

theorem drop (rises : t.Pairwise fun x y => x.1 < y.1) : Replaced t n none (dropSlot n t) :=
  ⟨rises.filter _, fun x => by simp [dropSlot]⟩

/-- What holds of the new entry and of the entries of the other slots holds of every entry. -/
theorem all {P : Nat × RemapEntry → Prop} (h : Replaced t n new t') (fresh : ∀ e, new = some e → P (n, e))
    (others : ∀ x ∈ t, x.1 ≠ n → P x) : ∀ x ∈ t', P x := by
  rintro ⟨m, e⟩ hx
  rcases (h.mem _).mp hx with ⟨rfl, he⟩ | ⟨hx, hm⟩
  · exact fresh e he
  · exact others _ hx hm

/-- A relation that holds between the entries of a table, and between the new entry and those of the other slots, holds between
the entries of the table with the slot replaced. -/
theorem pairwise {R : Nat × RemapEntry → Nat × RemapEntry → Prop} (h : Replaced t n new t') (symm : ∀ x y, R x y → R y x)
    (rises : t.Pairwise fun x y => x.1 < y.1) (law : t.Pairwise R)
    (fresh : ∀ e, new = some e → ∀ y ∈ t, y.1 ≠ n → R (n, e) y) : t'.Pairwise R := by
  rw [pairwise_iff_of_rises symm rises] at law
  refine (pairwise_iff_of_rises symm h.rises).mpr (h.all (fun e he => h.all ?_ ?_) fun x hx hn => h.all ?_ ?_)
  · exact fun _ _ differ => absurd rfl differ
  · exact fun y hy hn _ => fresh e he y hy hn
  · exact fun e he _ => symm _ _ (fresh e he x hx hn)
  · exact fun y hy _ => law x hx y hy

end Replaced

/-! ### The table and the engine (R26, R52) -/

theorem RemapEntry.isMigrating_eq_false {e : RemapEntry} : e.isMigrating = false ↔ e.state = .active := by
  unfold RemapEntry.isMigrating
  cases e.state <;> simp

/-- A state with this remap block, queue and engine: the law of the table and the engine reads no more of a state. -/
def Sparing.state (x : Sparing) : State := { State.reset with remap := x.1, srq := x.2.1, engine := x.2.2 }

/-- The law reads the table and the engine alone. -/
theorem State.TableOk.congr {s t : State} (law : s.TableOk) (table : t.remap.table = s.remap.table)
    (engine : t.engine = s.engine) : t.TableOk := by
  obtain ⟨rises, bound, unique, idle, context, alone⟩ := law
  constructor
  all_goals simpa only [table, engine]

theorem State.tableOk_iff_sparing (s : State) : s.TableOk ↔ s.sparing.state.TableOk :=
  ⟨fun law => law.congr rfl rfl, fun law => law.congr rfl rfl⟩

/-- An entry can stand in a slot: the slot is one of the 256, and no other slot has the entry's key (R26). -/
def Remap.Fits (r : Remap) (n : Nat) (e : RemapEntry) : Prop :=
  n < 256 ∧ ∀ x ∈ r.table, x.1 ≠ n → ¬(e.bank = x.2.bank ∧ e.row = x.2.row)

/-- Every entry but that of one slot is ACTIVE. -/
def Remap.ActiveBut (r : Remap) (n : Nat) : Prop := ∀ x ∈ r.table, x.1 ≠ n → x.2.state = .active

section Table

variable {r r' : Remap} {q q' : List SpareRequest} {g : Option EngineCtx} {n : Nat} {new : Option RemapEntry}

/-- An entry of a key that the search does not find fits in a FREE slot (R27). -/
theorem Remap.fits_of_free {e : RemapEntry} (missed : r.find e.bank e.row = none) (free : r.freeSlot = some n) : r.Fits n e :=
  ⟨(freeSlot_spec free).1, fun x hx _ ⟨bank, row⟩ => find_none_iff.mp missed x hx ⟨bank.symm, row.symm⟩⟩

/-- An entry fits in the slot of an entry of its key. -/
theorem Remap.fits_of_entryAt (law : (Sparing.state (r, q, g)).TableOk) {e e' : RemapEntry} (found : r.entryAt n = some e)
    (bank : e'.bank = e.bank) (row : e'.row = e.row) : r.Fits n e' := by
  have unique := (pairwise_iff_of_rises (fun _ _ h ⟨b, r⟩ => h ⟨b.symm, r.symm⟩) law.slots_rise).mp law.keys_unique
  have member := mem_of_entryAt found
  refine ⟨law.slots_bound _ member, fun x hx differ => ?_⟩
  rw [bank, row]
  exact unique _ member x hx (Ne.symm differ)

/-- An IDLE engine leaves every entry ACTIVE. -/
theorem Remap.activeBut_of_idle (law : (Sparing.state (r, q, none)).TableOk) (n : Nat) : r.ActiveBut n :=
  fun x hx _ => law.idle rfl x hx

/-- Beside the entry of the migration in progress every entry is ACTIVE. -/
theorem Remap.activeBut_of_context {c : EngineCtx} (law : (Sparing.state (r, q, some c)).TableOk) : r.ActiveBut c.entrySlot := by
  intro x hx differ
  refine RemapEntry.isMigrating_eq_false.mp (Bool.eq_false_iff.mpr fun migrating => ?_)
  exact differ (law.alone c rfl x hx migrating)

/-- The context names the source and the destination of its entry (R52). -/
theorem State.TableOk.entry_of_context {c : EngineCtx} {e : RemapEntry} (law : (Sparing.state (r, q, some c)).TableOk)
    (found : r.entryAt c.entrySlot = some e) : e.state = .migrating c.source ∧ e.dest = c.dest := by
  obtain ⟨e', member, state, dest⟩ := law.context c rfl
  obtain rfl : e = e' := Option.some.inj (found.symm.trans ((entryAt_iff_mem law.slots_rise).mpr member))
  exact ⟨state, dest⟩

/-- The laws of the slots and keys, with the slot of an entry that fits replaced (R26). -/
theorem State.TableOk.replace_entries (law : (Sparing.state (r, q, g)).TableOk) (h : Replaced r.table n new r'.table)
    (fits : ∀ e, new = some e → r.Fits n e) :
    (∀ x ∈ r'.table, x.1 < 256) ∧ r'.table.Pairwise fun x y => ¬(x.2.bank = y.2.bank ∧ x.2.row = y.2.row) :=
  ⟨h.all (fun e he => (fits e he).1) fun x hx _ => law.slots_bound x hx,
    h.pairwise (fun _ _ differ ⟨b, r⟩ => differ ⟨b.symm, r.symm⟩) law.slots_rise law.keys_unique
      fun e he => (fits e he).2⟩

/-- A slot is left FREE or ACTIVE, with the engine IDLE (R52). -/
theorem State.TableOk.settle (law : (Sparing.state (r, q, g)).TableOk) (h : Replaced r.table n new r'.table)
    (fits : ∀ e, new = some e → r.Fits n e) (others : r.ActiveBut n) (active : ∀ e, new = some e → e.state = .active) :
    (Sparing.state (r', q', none)).TableOk := by
  obtain ⟨bound, unique⟩ := law.replace_entries h fits
  exact ⟨h.rises, bound, unique, fun _ => h.all active others, nofun, nofun⟩

/-- A slot's entry is the one MIGRATING entry, and the context names it (R52). -/
theorem State.TableOk.migrate (law : (Sparing.state (r, q, g)).TableOk) {e : RemapEntry} {d : EngineCtx}
    (h : Replaced r.table n (some e) r'.table) (fits : r.Fits n e) (others : r.ActiveBut n) (slot : d.entrySlot = n)
    (state : e.state = .migrating d.source) (dest : e.dest = d.dest) : (Sparing.state (r', q', some d)).TableOk := by
  subst slot
  have fits' : ∀ e', some e = some e' → r.Fits d.entrySlot e' := fun e' he => Option.some.inj he ▸ fits
  obtain ⟨bound, unique⟩ := law.replace_entries h fits'
  refine ⟨h.rises, bound, unique, nofun, ?_, ?_⟩
  · rintro c ⟨⟩
    exact ⟨e, (h.mem _).mpr (.inl ⟨rfl, rfl⟩), state, dest⟩
  · rintro c ⟨⟩
    refine h.all (fun _ _ _ => rfl) fun x hx differ migrating => ?_
    have idle : x.2.isMigrating = false := RemapEntry.isMigrating_eq_false.mpr (others x hx differ)
    exact absurd migrating (Bool.eq_false_iff.mp idle)

/-- A slot without a MIGRATING entry, before and after: the engine is not concerned (R39, R41). -/
theorem State.TableOk.beside (law : (Sparing.state (r, q, g)).TableOk) (h : Replaced r.table n new r'.table)
    (fits : ∀ e, new = some e → r.Fits n e) (before : ∀ e, r.entryAt n = some e → e.state = .active)
    (after : ∀ e, new = some e → e.state = .active) : (Sparing.state (r', q', g)).TableOk := by
  obtain ⟨bound, unique⟩ := law.replace_entries h fits
  refine ⟨h.rises, bound, unique, fun idle => h.all after fun x hx _ => law.idle idle x hx, ?_, ?_⟩
  · intro c hc
    obtain ⟨e, member, state, dest⟩ := law.context c hc
    refine ⟨e, (h.mem _).mpr (.inr ⟨member, ?_⟩), state, dest⟩
    rintro rfl
    exact absurd ((before e ((entryAt_iff_mem law.slots_rise).mpr member)).symm.trans state) nofun
  · intro c hc
    refine h.all (fun e he migrating => ?_) fun x hx _ => law.alone c hc x hx
    exact absurd migrating (Bool.eq_false_iff.mp (RemapEntry.isMigrating_eq_false.mpr (after e he)))

end Table

/-- Each change keeps the table and the engine in step. -/
theorem SparingStep.keeps_table {x y : Sparing} (h : SparingStep x y) (law : x.state.TableOk) : y.state.TableOk := by
  have rises : x.1.table.Pairwise fun x y => x.1 < y.1 := law.slots_rise
  cases h
  case append | refuse | markDead | lowWater | clear => exact law.congr rfl rfl
  case start missed free _ bank row dest state slot source dest' =>
    subst slot
    rw [← bank, ← row] at missed
    exact law.migrate (.put _ rises) (Remap.fits_of_free missed free) (Remap.activeBut_of_idle law _) rfl
      (source ▸ state) (dest.trans dest'.symm)
  case respare found _ slot source dest =>
    subst slot
    obtain ⟨member, -, -⟩ := find_spec found
    exact law.migrate (.put _ rises) (Remap.fits_of_entryAt law ((entryAt_iff_mem rises).mpr member) rfl rfl)
      (Remap.activeBut_of_idle law _) rfl (source ▸ rfl) dest.symm
  case copy c d slot source dest =>
    refine ⟨law.1, law.2, law.3, nofun, ?_, ?_⟩
    · rintro d' ⟨⟩
      obtain ⟨e, member, state, dest'⟩ := law.context c rfl
      exact ⟨e, slot ▸ member, source ▸ state, dest ▸ dest'⟩
    · rintro d' ⟨⟩
      exact slot ▸ law.alone c rfl
  case restart c d e k found _ slot source dest =>
    obtain ⟨state, -⟩ := law.entry_of_context found
    exact law.migrate (.put _ rises) (Remap.fits_of_entryAt law found rfl rfl) (Remap.activeBut_of_context law) slot
      (source ▸ state) dest.symm
  case commitNew found _ | commitMoved found _ | revertMoved found _ _ =>
    exact law.settle (.put _ rises) (by rintro _ ⟨⟩; exact Remap.fits_of_entryAt law found rfl rfl)
      (Remap.activeBut_of_context law) (by rintro _ ⟨⟩; rfl)
  case revertNew => exact law.settle (.drop rises) nofun (Remap.activeBut_of_context law) nofun
  case drift c missed =>
    obtain ⟨e, member, -⟩ := law.context c rfl
    exact absurd rfl (entryAt_none_iff.mp missed _ member)
  case install r _ _ n _ missed free _ active =>
    have empty : r.entryAt n = none := entryAt_none_iff.mpr (freeSlot_spec free).2.1
    exact law.beside (.put _ rises) (by rintro _ ⟨⟩; exact Remap.fits_of_free missed free)
      (by rw [empty]; nofun) (by rintro _ ⟨⟩; exact active)
  case drop found active _ =>
    refine law.beside (.drop rises) nofun (fun e' found' => ?_) nofun
    obtain rfl := Option.some.inj (found.symm.trans found')
    exact RemapEntry.isMigrating_eq_false.mp active
  case rebuild => exact law.congr rfl rfl
  case reset => exact ⟨.nil, nofun, .nil, nofun, nofun, nofun⟩

/-- Settles O59: every command changes the table and the engine by a chain of claims, and each claim keeps them in step. -/
theorem stepKeepsTableAndEngineInStep : Obligations.StepKeepsTableAndEngineInStep := by
  refine step_keeps (fun _ _ law => law.congr rfl rfl) (fun _ _ law => law.congr rfl rfl) fun _ s t law h => ?_
  exact (State.tableOk_iff_sparing t).mpr
    (chain_keeps (P := fun x : Sparing => x.state.TableOk) (fun _ _ change => change.keeps_table) (exec_sparing h)
      ((State.tableOk_iff_sparing s).mp law))

/-! ### The spares that entries hold (R26, R30) -/

/-- The state of each spare after a claim (R28, R31). -/
theorem spareState_claim (r : Remap) (n : Nat) (e : RemapEntry) (bank spare : Nat) (st : SpareState) (b k : Nat) :
    (r.claim n e bank spare st).spareState b k = if b = bank ∧ k = spare then st else r.spareState b k := by
  rw [Remap.claim, spareState_setSpare, spareState_table]

/-- The state of each spare after a slot is made FREE (R31). -/
theorem spareState_release (r : Remap) (n bank spare : Nat) (st : SpareState) (b k : Nat) :
    (r.release n bank spare st).spareState b k = if b = bank ∧ k = spare then st else r.spareState b k := by
  rw [Remap.release, spareState_setSpare, spareState_table]

section Spares

variable {r r' : Remap} {n : Nat} {e : RemapEntry} {new : Option RemapEntry}

/-- An ACTIVE entry and a new sparing's hold their destination alone. -/
theorem RemapEntry.holds_dest (h : ∀ k, e.state ≠ .migrating (.spare k)) {b k : Nat} :
    e.holds b k ↔ b = e.bank ∧ k = e.dest := by
  simp [RemapEntry.holds, h, eq_comm]

theorem RemapEntry.holds_active (h : e.state = .active) {b k : Nat} : e.holds b k ↔ b = e.bank ∧ k = e.dest :=
  RemapEntry.holds_dest (by simp [h])

theorem RemapEntry.holds_original (h : e.state = .migrating .original) {b k : Nat} : e.holds b k ↔ b = e.bank ∧ k = e.dest :=
  RemapEntry.holds_dest (by simp [h])

/-- A re-spare's entry holds its destination and its source. -/
theorem RemapEntry.holds_spare {d : Nat} (h : e.state = .migrating (.spare d)) {b k : Nat} :
    e.holds b k ↔ b = e.bank ∧ (k = e.dest ∨ k = d) := by
  simp [RemapEntry.holds, h, eq_comm]

/-- Of the two spares of a re-spare, an ACTIVE entry keeps the one that is not given up. -/
theorem RemapEntry.holds_kept {e' : RemapEntry} {d kept gone : Nat} (state : e.state = .migrating (.spare d)) (moved : e.dest ≠ d)
    (pair : kept = e.dest ∧ gone = d ∨ kept = d ∧ gone = e.dest) (active : e'.state = .active) (bank : e'.bank = e.bank)
    (dest : e'.dest = kept) (b j : Nat) : e'.holds b j ↔ ¬(b = e.bank ∧ j = gone) ∧ e.holds b j := by
  rw [RemapEntry.holds_active active, RemapEntry.holds_spare state, bank, dest]
  rcases pair with ⟨rfl, rfl⟩ | ⟨rfl, rfl⟩ <;> grind

/-- Whether the entry of a slot, if it has one, holds a spare. -/
def slotHolds (entry : Option RemapEntry) (b k : Nat) : Prop := ∃ e, entry = some e ∧ e.holds b k

@[simp] theorem slotHolds_none {b k : Nat} : slotHolds none b k ↔ False := by simp [slotHolds]

@[simp] theorem slotHolds_some {b k : Nat} : slotHolds (some e) b k ↔ e.holds b k := by simp [slotHolds]

/-- A spare that the entry of a slot holds, no entry of another slot holds. -/
theorem Remap.SparesOk.others (law : r.SparesOk) (rises : r.table.Pairwise fun x y => x.1 < y.1) {b k : Nat}
    (held : slotHolds (r.entryAt n) b k) : ∀ x ∈ r.table, x.1 ≠ n → ¬x.2.holds b k := by
  intro x hx differ holds
  obtain ⟨e, found, holds'⟩ := held
  have apart := (pairwise_iff_of_rises (fun _ _ h b k ⟨hy, hx⟩ => h b k ⟨hx, hy⟩) rises).mp law.apart
  exact apart x hx _ (mem_of_entryAt found) differ b k ⟨holds, holds'⟩

/-- A slot's entry replaced, with the spares that it held no longer ASSIGNED and those that the new one holds ASSIGNED, each of
them its own before or not ASSIGNED (R28, R30). -/
theorem Remap.SparesOk.replace (law : r.SparesOk) (rises : r.table.Pairwise fun x y => x.1 < y.1)
    (h : Replaced r.table n new r'.table)
    (assigned : ∀ b k, r'.spareState b k = .assigned ↔
      slotHolds new b k ∨ r.spareState b k = .assigned ∧ ¬slotHolds (r.entryAt n) b k)
    (fresh : ∀ b k, slotHolds new b k → r.spareState b k = .assigned → slotHolds (r.entryAt n) b k)
    (moved : ∀ e, new = some e → e.state ≠ .migrating (.spare e.dest)) : r'.SparesOk where
  assigned b k := by
    rw [assigned]
    constructor
    · rintro (⟨e, he, holds⟩ | ⟨held, free⟩)
      · exact ⟨(n, e), (h.mem _).mpr (.inl ⟨rfl, he⟩), holds⟩
      · obtain ⟨x, hx, holds⟩ := (law.assigned b k).mp held
        refine ⟨x, (h.mem _).mpr (.inr ⟨hx, ?_⟩), holds⟩
        rintro rfl
        exact free ⟨x.2, (entryAt_iff_mem rises).mpr hx, holds⟩
    · rintro ⟨x, hx, holds⟩
      rcases (h.mem x).mp hx with ⟨-, he⟩ | ⟨hx, differ⟩
      · exact .inl ⟨x.2, he, holds⟩
      · exact .inr ⟨(law.assigned b k).mpr ⟨x, hx, holds⟩, fun held => law.others rises held x hx differ holds⟩
  apart := by
    refine h.pairwise (fun _ _ h b k ⟨hy, hx⟩ => h b k ⟨hx, hy⟩) rises law.apart
      fun e he x hx differ b k ⟨own, holds⟩ => ?_
    have held := fresh b k ⟨e, he, own⟩ ((law.assigned b k).mpr ⟨x, hx, holds⟩)
    exact law.others rises held x hx differ holds
  moved := h.all moved fun x hx _ => law.moved x hx

/-- The spares that a slot's entry holds are ASSIGNED (R30). -/
theorem Remap.SparesOk.assigned_of_slotHolds (law : r.SparesOk) {b k : Nat} (held : slotHolds (r.entryAt n) b k) :
    r.spareState b k = .assigned := by
  obtain ⟨e, found, holds⟩ := held
  exact (law.assigned b k).mpr ⟨_, mem_of_entryAt found, holds⟩

/-- A FREE spare is none that a slot's entry holds. -/
theorem Remap.SparesOk.ne_of_free (law : r.SparesOk) {b j k : Nat} (held : slotHolds (r.entryAt n) b j)
    (free : r.spareState b k = .free) : k ≠ j := by
  rintro rfl
  exact absurd (free.symm.trans (law.assigned_of_slotHolds held)) nofun

/-- A FREE spare is taken by the entry of a slot, which keeps those that the slot's entry held (R31). -/
theorem Remap.SparesOk.allocate (law : r.SparesOk) (rises : r.table.Pairwise fun x y => x.1 < y.1) {bank spare : Nat}
    (h : Replaced r.table n (some e) r'.table)
    (state : ∀ b k, r'.spareState b k = if b = bank ∧ k = spare then .assigned else r.spareState b k)
    (free : r.spareState bank spare = .free)
    (holds : ∀ b k, e.holds b k ↔ (b = bank ∧ k = spare) ∨ slotHolds (r.entryAt n) b k)
    (moved : e.state ≠ .migrating (.spare e.dest)) : r'.SparesOk := by
  refine law.replace rises h (fun b k => ?_) (fun b k => ?_) (by rintro _ ⟨⟩; exact moved)
  · rw [state, slotHolds_some, holds]
    have held := law.assigned_of_slotHolds (n := n) (b := b) (k := k)
    split_ifs <;> tauto
  · rw [slotHolds_some, holds]
    rintro (⟨rfl, rfl⟩ | own) assigned
    · exact absurd (free.symm.trans assigned) nofun
    · exact own

/-- A spare that a slot's entry held is FREE or DEAD, and what stands in the slot keeps the others (R31). -/
theorem Remap.SparesOk.giveUp (law : r.SparesOk) (rises : r.table.Pairwise fun x y => x.1 < y.1) {bank spare : Nat}
    {st : SpareState} (h : Replaced r.table n new r'.table)
    (state : ∀ b k, r'.spareState b k = if b = bank ∧ k = spare then st else r.spareState b k) (gone : st ≠ .assigned)
    (own : slotHolds (r.entryAt n) bank spare)
    (holds : ∀ b k, slotHolds new b k ↔ ¬(b = bank ∧ k = spare) ∧ slotHolds (r.entryAt n) b k)
    (moved : ∀ e, new = some e → e.state ≠ .migrating (.spare e.dest)) : r'.SparesOk := by
  refine law.replace rises h (fun b k => ?_) (fun b k => ?_) moved
  · rw [state, holds]
    have held := law.assigned_of_slotHolds (n := n) (b := b) (k := k)
    split_ifs with same
    · obtain ⟨rfl, rfl⟩ := same
      tauto
    · tauto
  · rw [holds]
    exact fun kept _ => kept.2

/-- A restart: the destination of a MIGRATING entry is DEAD, and the entry takes a FREE spare in its place (R28). -/
theorem Remap.SparesOk.restart (law : r.SparesOk) (rises : r.table.Pairwise fun x y => x.1 < y.1) {source : Source} {k : Nat}
    (found : r.entryAt n = some e) (state : e.state = .migrating source) (free : r.spareState e.bank k = .free) :
    ((r.setSpare e.bank e.dest .dead).claim n { e with dest := k } e.bank k .assigned).SparesOk := by
  have moved : source ≠ .spare e.dest := by simpa [state] using law.moved _ (mem_of_entryAt found)
  have old (b j : Nat) : slotHolds (r.entryAt n) b j ↔ e.bank = b ∧ (e.dest = j ∨ source = .spare j) := by
    simp [found, RemapEntry.holds, state]
  have new (b j : Nat) : slotHolds (some { e with dest := k }) b j ↔ e.bank = b ∧ (k = j ∨ source = .spare j) := by
    simp [RemapEntry.holds, state]
  have held (b j : Nat) : e.bank = b ∧ (e.dest = j ∨ source = .spare j) → r.spareState b j = .assigned :=
    fun own => law.assigned_of_slotHolds ((old b j).mpr own)
  refine law.replace rises (.put _ rises) (fun b j => ?_) (fun b j => ?_) ?_
  · rw [spareState_claim, spareState_setSpare, old, new]
    grind
  · rw [old, new]
    grind
  · rintro _ ⟨⟩
    simp only [state]
    grind

end Spares

/-- Each change keeps the ASSIGNED spares those that entries hold, while the table and the engine are in step. -/
theorem SparingStep.keeps_spares {x y : Sparing} (h : SparingStep x y) (table : x.state.TableOk) (law : x.1.SparesOk) :
    y.1.SparesOk := by
  have rises : x.1.table.Pairwise fun x y => x.1 < y.1 := table.slots_rise
  cases h
  case append | refuse | copy | clear | drift => exact law
  case lowWater => exact ⟨law.assigned, law.apart, law.moved⟩
  case start r x q n k e c missed free lowest bank row dest state slot source dest' =>
    have empty : r.entryAt n = none := entryAt_none_iff.mpr (freeSlot_spec free).2.1
    exact law.allocate rises (.put e rises) (spareState_claim _ _ _ _ _ _) (pool_head lowest).2
      (by simp [empty, RemapEntry.holds_original state, bank, dest]) (by simp [state])
  case respare r x q n k e t c found lowest slot source dest =>
    obtain ⟨member, bank, row⟩ := find_spec found
    have found := (entryAt_iff_mem rises).mpr member
    have active : e.state = .active := table.idle rfl _ member
    have own : slotHolds (r.entryAt n) x.bank e.dest := by simpa [found, RemapEntry.holds_active active] using bank.symm
    have differ := law.ne_of_free own (pool_head lowest).2
    refine law.allocate rises (.put _ rises) (spareState_claim _ _ _ _ _ _) (pool_head lowest).2 (fun b j => ?_)
      (by simpa using differ.symm)
    rw [RemapEntry.holds_spare rfl, found, slotHolds_some, RemapEntry.holds_active active, bank]
    tauto
  case install r q g n e missed free idle active =>
    have empty : r.entryAt n = none := entryAt_none_iff.mpr (freeSlot_spec free).2.1
    exact law.allocate rises (.put e rises) (spareState_claim _ _ _ _ _ _) idle
      (by simp [empty, RemapEntry.holds_active active]) (by simp [active])
  case restart r q c d e k found lowest slot source dest =>
    obtain ⟨state, dest⟩ := table.entry_of_context found
    exact dest ▸ law.restart rises found state (pool_head lowest).2
  case commitNew r q c e g t found source =>
    obtain ⟨state, dest⟩ := table.entry_of_context found
    rw [source] at state
    have same (b k : Nat) : slotHolds (some
        { e with state := .active, dest := c.dest, origin := .migrated, generation := g, time := t }) b k
        ↔ slotHolds (r.entryAt c.entrySlot) b k := by
      rw [found, slotHolds_some, slotHolds_some, RemapEntry.holds_active rfl, RemapEntry.holds_original state, dest]
    refine law.replace rises (.put _ rises) (fun b k => ?_) (fun b k own _ => (same b k).mp own) (by rintro _ ⟨⟩; nofun)
    rw [same]
    have held := law.assigned_of_slotHolds (n := c.entrySlot) (b := b) (k := k)
    rw [spareState_table]
    tauto
  case commitMoved r q c e g k t found source =>
    obtain ⟨state, dest⟩ := table.entry_of_context found
    rw [source] at state
    have moved : e.dest ≠ k := by simpa [state, eq_comm] using law.moved _ (mem_of_entryAt found)
    refine law.giveUp rises (.put _ rises) (spareState_claim _ _ _ _ _ _) nofun ?_ (fun b j => ?_) (by rintro _ ⟨⟩; nofun)
    · simp [found, RemapEntry.holds_spare state]
    · rw [found, slotHolds_some, slotHolds_some]
      refine RemapEntry.holds_kept state moved (.inl ⟨dest.symm, rfl⟩) ?_ ?_ ?_ b j <;> rfl
  case revertMoved r q c e k t st found source gone =>
    obtain ⟨state, dest⟩ := table.entry_of_context found
    rw [source] at state
    have moved : e.dest ≠ k := by simpa [state, eq_comm] using law.moved _ (mem_of_entryAt found)
    refine law.giveUp rises (.put _ rises) (spareState_claim _ _ _ _ _ _) gone ?_ (fun b j => ?_) (by rintro _ ⟨⟩; nofun)
    · simp [found, RemapEntry.holds_spare state, dest]
    · rw [found, slotHolds_some, slotHolds_some]
      refine RemapEntry.holds_kept state moved (.inr ⟨rfl, dest.symm⟩) ?_ ?_ ?_ b j <;> rfl
  case revertNew r q c e st found source gone =>
    obtain ⟨state, dest⟩ := table.entry_of_context found
    rw [source] at state
    exact law.giveUp rises (.drop rises) (spareState_release _ _ _ _ _) gone
      (by simp [found, RemapEntry.holds_original state, dest])
      (by simp +contextual [found, RemapEntry.holds_original state, dest]) nofun
  case drop r q g n e st found active gone =>
    have active := RemapEntry.isMigrating_eq_false.mp active
    exact law.giveUp rises (.drop rises) (spareState_release _ _ _ _ _) gone
      (by simp [found, RemapEntry.holds_active active]) (by simp +contextual [found, RemapEntry.holds_active active]) nofun
  case markDead r q g b k idle =>
    refine ⟨fun b' k' => ?_, law.apart, law.moved⟩
    rw [spareState_setSpare, (setSpare_frame r b k .dead).2.1, ← law.assigned]
    split_ifs with same
    · obtain ⟨rfl, rfl⟩ := same
      simp [idle]
    · rfl
  case rebuild empty =>
    exact ⟨fun b k => by simp [empty, Remap.spareState], by simp [empty], by simp [empty]⟩
  case reset => exact ⟨fun b k => by simp [Remap.spareState], .nil, nofun⟩

/-- Settles O60: each claim keeps both laws, and the law of the spares rests on that of the table. -/
theorem stepKeepsAssignedSparesHeld : Obligations.StepKeepsAssignedSparesHeld := by
  have both : ∀ s t : State, s.TableOk ∧ s.remap.SparesOk → step s = .next t → t.TableOk ∧ t.remap.SparesOk := by
    refine step_keeps (fun _ _ ⟨table, spares⟩ => ⟨table.congr rfl rfl, spares⟩)
      (fun _ _ ⟨table, spares⟩ => ⟨table.congr rfl rfl, spares⟩) fun _ s t ⟨table, spares⟩ h => ?_
    obtain ⟨table', spares'⟩ := chain_keeps (P := fun x : Sparing => x.state.TableOk ∧ x.1.SparesOk)
      (fun _ _ change ⟨table, spares⟩ => ⟨change.keeps_table table, change.keeps_spares table spares⟩) (exec_sparing h)
      ⟨(State.tableOk_iff_sparing s).mp table, spares⟩
    exact ⟨(State.tableOk_iff_sparing t).mpr table', spares'⟩
  exact fun s t law h => (both s t law h).2

end Sys2Proof.Machine
end

section
/-! THEOREMS. The commands of the remap block (R30, R33, R34, R36, R37, R39, R41 to R45): their checks, their readouts, what
they change. -/

namespace Sys2Proof.Machine

/-! ### Address tests and results (R7) -/

theorem bankOk_iff {bank : Nat} : bankOk bank = true ↔ bank ≤ 15 := by
  simp only [bankOk, decide_eq_true_eq, Nat.lt_succ_iff]

theorem rowOk_iff {reservation row : Nat} : rowOk reservation row = true ↔ row < 32768 - reservation := by
  unfold rowOk visibleRows
  exact decide_eq_true_iff

theorem spareOk_iff {reservation spare : Nat} : spareOk reservation spare = true ↔ spare < reservation := by
  simp only [spareOk, decide_eq_true_eq]

/-! ### The low-water test and the last FREE slot (R27, R33) -/

section Flags

variable (s : State)

/-- The low-water test sets POOL_LOW at most (R33). -/
theorem State.testLowWater_eq (bank : Nat) : s.testLowWater bank =
    { s with flags := s.flags ||| (if (s.remap.pool bank).length < s.remap.lowWater then 0x0020 else 0) } := by
  unfold State.testLowWater
  split
  · rfl
  · simp

/-- A spare taken from the pool (R31, R33). -/
theorem State.assignSpare_eq (bank spare : Nat) : s.assignSpare bank spare =
    { s with
      remap := s.remap.setSpare bank spare .assigned
      flags := s.flags |||
        (if ((s.remap.setSpare bank spare .assigned).pool bank).length < s.remap.lowWater then 0x0020 else 0) } := by
  rw [State.assignSpare, State.testLowWater_eq]
  rfl

/-- A FREE spare retired (R31, R33). -/
theorem State.markDead_eq (bank spare : Nat) : s.markDead bank spare =
    { s with
      remap := s.remap.setSpare bank spare .dead
      flags := s.flags |||
        (if ((s.remap.setSpare bank spare .dead).pool bank).length < s.remap.lowWater then 0x0020 else 0) } := by
  rw [State.markDead, State.testLowWater_eq]
  rfl

/-- A new entry in a FREE slot sets TABLE_FULL when it fills the last one (R27). -/
theorem State.createEntry_eq {n : Nat} (free : s.remap.freeSlot = some n) (e : RemapEntry) : s.createEntry n e =
    { s with
      remap := { s.remap with table := Machine.putEntry n e s.remap.table }
      flags := s.flags ||| (if s.remap.table.length = 255 then 0x0040 else 0) } := by
  have grown : (s.putEntry n e).remap.table.length = s.remap.table.length + 1 := putEntry_length (freeSlot_spec free).2.1
  have full : (s.putEntry n e).remap.table.length = Config.tableSlots ↔ s.remap.table.length = 255 := by
    rw [grown, Config.tableSlots]
    omega
  simp only [State.createEntry, full]
  split
  · rfl
  · simp [State.putEntry]

end Flags

/-! ### The taking of each command (R175) -/

section RemapCommands

variable {s : State} {p : Params}

theorem execSetLowWater_of_takes (h : s.takes codeSetLowWater p) :
    exec .setLowWater s = .next ((s.busy codeSetLowWater p).setLowWater (paramByte p 0)) :=
  congrArg _ (runCommand_of_takes _ h)

theorem execMarkSpareDead_of_takes (h : s.takes codeMarkSpareDead p) :
    exec .markSpareDead s = .next ((s.busy codeMarkSpareDead p).markSpareDead (paramByte p 0) (paramByte p 1)) :=
  congrArg _ (runCommand_of_takes _ h)

theorem execSetReservation_of_takes (h : s.takes codeSetReservation p) :
    exec .setReservation s = .next ((s.busy codeSetReservation p).setReservation (paramByte p 0)) :=
  congrArg _ (runCommand_of_takes _ h)

theorem execReadRemap_of_takes (h : s.takes codeReadRemap p) :
    exec .readRemap s = .next ((s.busy codeReadRemap p).readRemap (paramHalf p 0)) :=
  congrArg _ (runCommand_of_takes _ h)

theorem execReadPool_of_takes (h : s.takes codeReadPool p) :
    exec .readPool s = .next ((s.busy codeReadPool p).readPool (paramByte p 0)) :=
  congrArg _ (runCommand_of_takes _ h)

theorem execFindRemap_of_takes (h : s.takes codeFindRemap p) :
    exec .findRemap s = .next ((s.busy codeFindRemap p).findRemap (paramByte p 0) (paramHalf p 1)) :=
  congrArg _ (runCommand_of_takes _ h)

theorem execInstallEntry_of_takes (h : s.takes codeInstallEntry p) :
    exec .installEntry s =
      .next ((s.busy codeInstallEntry p).installEntry (paramByte p 0) (paramHalf p 1) (paramByte p 3)) :=
  congrArg _ (runCommand_of_takes _ h)

theorem execDropEntry_of_takes (h : s.takes codeDropEntry p) :
    exec .dropEntry s = .next ((s.busy codeDropEntry p).dropEntry (paramHalf p 0) (paramByte p 2)) :=
  congrArg _ (runCommand_of_takes _ h)

end RemapCommands

/-! ### SET_LOW_WATER, MARK_SPARE_DEAD and SET_RESERVATION (R34, R36, R37, R42) -/

/-- Settles O19: the mark by its one check, and its byte of the readout. -/
theorem setLowWaterReplacesTheMark : Obligations.SetLowWaterReplacesTheMark := by
  intro s p h
  rw [execSetLowWater_of_takes h]
  refine ⟨fun above => ?_, fun inside => ?_⟩
  · rw [State.setLowWater, if_pos above, busy_complete]
  · rw [State.setLowWater, if_neg (Nat.not_lt.mpr inside)]
    exact ⟨_, rfl, rfl, fun _ => rfl⟩

/-- MARK_SPARE_DEAD out of range (R42). -/
theorem State.markSpareDead_badParam (s : State) {bank spare : Nat} (refused : ¬(bank ≤ 15 ∧ spare < s.remap.s)) :
    s.markSpareDead bank spare = s.complete .badParam := by
  rw [← bankOk_iff, ← spareOk_iff, ← Bool.and_eq_true] at refused
  rw [State.markSpareDead, if_pos (Bool.eq_false_iff.mpr refused)]

/-- MARK_SPARE_DEAD of a spare, by its state (R42). -/
theorem State.markSpareDead_of_valid (s : State) {bank spare : Nat} (valid : bank ≤ 15 ∧ spare < s.remap.s) :
    s.markSpareDead bank spare =
      if s.remap.spareState bank spare = .free then (s.markDead bank spare).complete .ok else s.complete .wrongState := by
  rw [← bankOk_iff, ← spareOk_iff, ← Bool.and_eq_true] at valid
  rw [State.markSpareDead, if_neg (by rw [valid]; nofun)]

/-- Settles O18: the two checks, and the spare retired with the low-water test. -/
theorem markSpareDeadRetiresAFreeSpare : Obligations.MarkSpareDeadRetiresAFreeSpare := by
  intro s p h bank spare valid
  rw [execMarkSpareDead_of_takes h]
  refine ⟨fun refused => ?_, fun accepted busy => ?_, fun accepted free => ?_⟩
  · rw [State.markSpareDead_badParam (s.busy codeMarkSpareDead p) refused, busy_complete]
  · rw [State.markSpareDead_of_valid (s.busy codeMarkSpareDead p) accepted, if_neg (by exact busy), busy_complete]
  · rw [State.markSpareDead_of_valid (s.busy codeMarkSpareDead p) accepted, if_pos (by exact free), State.markDead_eq]
    have state := spareState_setSpare s.remap bank spare .dead
    have dead := (state bank spare).trans (if_pos ⟨rfl, rfl⟩)
    refine ⟨_, rfl, rfl, rfl, rfl, rfl, dead, fun member => ?_, fun b k other => (state b k).trans (if_neg other), rfl⟩
    exact absurd ((mem_pool.mp member).2.symm.trans dead) nofun

theorem isReservation_iff {n : Nat} : isReservation n = true ↔ n = 0 ∨ n = 8 ∨ n = 16 ∨ n = 32 ∨ n = 64 := by
  simp only [isReservation, Bool.or_eq_true, beq_iff_eq, or_assoc]

/-- Settles O15: the value, then the gate and the table, then the pools rebuilt. -/
theorem setReservationRebuildsThePools : Obligations.SetReservationRebuildsThePools := by
  intro s p h n valid
  have check : isReservation n = false ↔ ¬valid := by rw [← Bool.not_eq_true, isReservation_iff]
  rw [execSetReservation_of_takes h, State.setReservation]
  refine ⟨fun refused => ?_, fun accepted busy => ?_, fun accepted closed empty => ?_⟩
  · rw [if_pos (check.mpr refused), busy_complete]
  · rw [if_neg fun refused => check.mp refused accepted]
    rw [if_pos (by exact busy), busy_complete]
  · rw [if_neg fun refused => check.mp refused accepted]
    rw [if_neg fun busy => busy.elim (· closed) (· empty)]
    exact ⟨_, rfl, rfl, rfl, empty, rfl, fun _ _ => rfl⟩

/-! ### INSTALL_ENTRY and DROP_ENTRY (R39, R41) -/

/-- The remap block and the flags after an installation (R39). -/
theorem State.install_eq (s : State) {n : Nat} (free : s.remap.freeSlot = some n) (bank row spare : Nat) :
    let remap := s.remap.claim n
      { bank := bank, row := row, dest := spare, state := .active, origin := .installed, generation := 0, time := s.now }
      bank spare .assigned
    s.install n bank row spare =
      { s with
        remap := remap
        flags := s.flags ||| (if s.remap.table.length = 255 then 0x0040 else 0)
          ||| (if (remap.pool bank).length < s.remap.lowWater then 0x0020 else 0) } := by
  intro remap
  rw [State.install, State.createEntry_eq s free, State.assignSpare_eq]
  rfl

/-- The remap block after a removal (R41). -/
theorem State.drop_eq (s : State) (n : Nat) (e : RemapEntry) (dead : Bool) :
    s.drop n e dead = { s with remap := s.remap.release n e.bank e.dest (if dead then .dead else .free) } := by
  cases dead <;> rfl

theorem entryAt_claim (r : Remap) (n : Nat) (e : RemapEntry) (bank spare : Nat) (st : SpareState) (m : Nat) :
    (r.claim n e bank spare st).entryAt m = if m = n then some e else r.entryAt m := by
  rw [Remap.claim, entryAt_setSpare, entryAt_putEntry]

theorem entryAt_release (r : Remap) (n bank spare : Nat) (st : SpareState) (m : Nat) :
    (r.release n bank spare st).entryAt m = if m = n then none else r.entryAt m := by
  rw [Remap.release, entryAt_setSpare, entryAt_dropSlot]

section DropEntry

variable (s : State) {slot fate : Nat}

/-- DROP_ENTRY of a slot or a fate out of range (R41). -/
theorem State.dropEntry_badParam (refused : 255 < slot ∨ 1 < fate) : s.dropEntry slot fate = s.complete .badParam := by
  rw [State.dropEntry, onOff_eq]
  by_cases known : fate ≤ 1
  · have outside : Config.tableSlots ≤ slot := refused.resolve_right (Nat.not_lt.mpr known)
    rw [if_pos known]
    exact if_pos outside
  · rw [if_neg known]

/-- DROP_ENTRY of a slot and a fate in range: the gate, the slot and its entry decide (R41). -/
theorem State.dropEntry_of_valid (inside : slot ≤ 255) (known : fate ≤ 1) : s.dropEntry slot fate =
    if s.ctl.gate ≠ .closed then s.complete .wrongState
    else
      match s.remap.entryAt slot with
      | none => s.complete .notFound
      | some e => if e.isMigrating then s.complete .wrongState else (s.drop slot e (fate == 1)).complete .ok := by
  have slots : ¬Config.tableSlots ≤ slot := Nat.not_le.mpr (Nat.lt_succ_of_le inside)
  rw [State.dropEntry, onOff_eq, if_pos known]
  exact if_neg slots

end DropEntry

/-- Settles O17: the four checks in their order, then the release of the slot and the spare. -/
theorem dropEntryChecksThenRemoves : Obligations.DropEntryChecksThenRemoves := by
  intro s p h slot fate
  rw [execDropEntry_of_takes h]
  refine ⟨fun refused => ?_, fun inside known opened => ?_, fun inside known closed free => ?_,
    fun e inside known closed found migrating => ?_, fun e inside known closed found active => ?_⟩
  · rw [State.dropEntry_badParam _ refused, busy_complete]
  all_goals rw [State.dropEntry_of_valid _ inside known]
  · rw [if_pos (by exact opened), busy_complete]
  all_goals rw [if_neg (by exact not_not_intro closed)]
  · have entry : (s.busy codeDropEntry p).remap.entryAt slot = none := free
    rw [entry]
    rfl
  all_goals
    have entry : (s.busy codeDropEntry p).remap.entryAt slot = some e := found
    rw [entry]
    dsimp only
  · rw [if_pos migrating, busy_complete]
  · rw [if_neg (by rw [active]; nofun), State.drop_eq]
    have state := spareState_release s.remap slot e.bank e.dest (if (fate == 1) = true then .dead else .free)
    have slots := entryAt_release s.remap slot e.bank e.dest (if (fate == 1) = true then .dead else .free)
    have fates : (if (fate == 1) = true then SpareState.dead else .free) = if fate = 0 then .free else .dead := by
      interval_cases fate <;> rfl
    exact ⟨_, rfl, rfl, rfl, rfl, (slots slot).trans (if_pos rfl), fun m other => (slots m).trans (if_neg other),
      (state e.bank e.dest).trans ((if_pos ⟨rfl, rfl⟩).trans fates), fun b k other => (state b k).trans (if_neg other)⟩

section InstallEntry

variable (s : State) {bank row spare : Nat}

/-- INSTALL_ENTRY of an address out of range (R39). -/
theorem State.installEntry_badParam (refused : ¬(bank ≤ 15 ∧ row < 32768 - s.remap.s ∧ spare < s.remap.s)) :
    s.installEntry bank row spare = s.complete .badParam := by
  rw [← bankOk_iff, ← rowOk_iff, ← spareOk_iff, ← and_assoc, ← Bool.and_eq_true, ← Bool.and_eq_true] at refused
  rw [State.installEntry, if_pos (Bool.eq_false_iff.mpr refused)]

/-- INSTALL_ENTRY of an address in range: the gate, the key, the slots and the spare decide in this order (R39). -/
theorem State.installEntry_of_valid (valid : bank ≤ 15 ∧ row < 32768 - s.remap.s ∧ spare < s.remap.s) :
    s.installEntry bank row spare =
      if s.ctl.gate ≠ .closed then s.complete .wrongState
      else if (s.remap.find bank row).isSome then s.complete .duplicate
      else
        match s.remap.freeSlot with
        | none => s.complete .full
        | some slot =>
          if s.remap.spareState bank spare ≠ .free then s.complete .wrongState
          else (s.install slot bank row spare).completeWith (leBytes 2 slot) := by
  rw [← bankOk_iff, ← rowOk_iff, ← spareOk_iff, ← and_assoc, ← Bool.and_eq_true, ← Bool.and_eq_true] at valid
  exact if_neg (by rw [valid]; nofun)

end InstallEntry

/-- Settles O16: the five checks in their order, then the claim of the slot and the spare. -/
theorem installEntryChecksThenInstalls : Obligations.InstallEntryChecksThenInstalls := by
  intro s p h bank row spare valid key full
  have keyed : ((s.busy codeInstallEntry p).remap.find bank row).isSome = key := List.isSome_find?
  have slots : (s.busy codeInstallEntry p).remap.freeSlot = none ↔ full := freeSlot_none_iff
  rw [execInstallEntry_of_takes h]
  refine ⟨fun refused => ?_, fun accepted opened => ?_, fun accepted closed known => ?_, fun accepted closed new none => ?_,
    fun accepted closed new room busy => ?_, fun accepted closed new room free => ?_⟩
  · rw [State.installEntry_badParam (s.busy codeInstallEntry p) refused, busy_complete]
  all_goals rw [State.installEntry_of_valid (s.busy codeInstallEntry p) accepted]
  · rw [if_pos (by exact opened), busy_complete]
  all_goals rw [if_neg (by exact not_not_intro closed), keyed]
  · rw [if_pos known, busy_complete]
  all_goals rw [if_neg (by rw [new]; nofun)]
  · rw [slots.mpr none]
    rfl
  all_goals
    obtain ⟨n, lowest⟩ := Option.ne_none_iff_exists'.mp fun missed => room (slots.mp missed)
    rw [lowest]
    dsimp only
  · rw [if_pos (by exact busy), busy_complete]
  · obtain ⟨bound, unused, below⟩ := freeSlot_spec lowest
    rw [if_neg (by exact not_not_intro free), State.install_eq _ lowest]
    let e : RemapEntry :=
      { bank := bank, row := row, dest := spare, state := .active, origin := .installed, generation := 0, time := s.now }
    have state := spareState_claim s.remap n e bank spare .assigned
    have entry := entryAt_claim s.remap n e bank spare .assigned
    exact ⟨n, _, rfl, bound, unused, below, rfl, rfl, rfl, (entry n).trans (if_pos rfl),
      fun m other => (entry m).trans (if_neg other), (state bank spare).trans (if_pos ⟨rfl, rfl⟩),
      fun b k other => (state b k).trans (if_neg other), rfl⟩

/-! ### The readouts (R43 to R45, R179) -/

/-- The remap entry readout is the layout of R179. -/
theorem remapBytes_eq_remapReadout (s : State) (slot : Nat) : s.remapBytes slot = s.remapReadout slot := by
  simp only [State.remapBytes, State.remapReadout, leBytes_two]
  congr 1
  cases s.remap.entryAt slot with
  | none => rfl
  | some e =>
    obtain ⟨bank, row, dest, state, origin, generation, time⟩ := e
    simp only [entryBytes, RemapEntry.isMigrating, leBytes_two, leBytes_four]
    cases state with
    | active => cases origin <;> rfl
    | migrating source => cases origin <;> cases source <;> rfl

/-- The two bits of a spare (R179). -/
theorem Remap.spareBits_eq_spareCode (r : Remap) (bank k : Nat) : r.spareBits bank k = r.spareCode bank k := by
  unfold Remap.spareBits Remap.spareCode
  by_cases h : k < r.s
  · rw [if_pos h, if_neg (Nat.not_le.mpr h)]
    cases r.spareState bank k <;> rfl
  · rw [if_neg h, if_pos (Nat.not_lt.mp h)]

/-- The pool readout is the layout of R179. -/
theorem poolBytes_eq_poolReadout (s : State) (bank : Nat) : s.poolBytes bank = s.poolReadout bank := by
  cases lowest : (List.range s.remap.s).find? fun k => decide (s.remap.spareState bank k = .free) <;>
    simp only [State.poolBytes, State.poolReadout, Remap.countSpares, Remap.pool, List.head?_filter,
      Remap.spareBits_eq_spareCode, byteOf, lowest]

/-- Each spare of a bank has one of the three states (R30). -/
theorem countSpares_add (r : Remap) (bank : Nat) :
    r.countSpares bank .free + r.countSpares bank .assigned + r.countSpares bank .dead = r.s := by
  have each (l : List Nat) : (l.filter fun k => r.spareState bank k = .free).length
      + (l.filter fun k => r.spareState bank k = .assigned).length
      + (l.filter fun k => r.spareState bank k = .dead).length = l.length := by
    induction l with
    | nil => rfl
    | cons k l ih => cases h : r.spareState bank k <;> simp [h] <;> omega
  exact (each _).trans List.length_range

/-- A readout fills DATA from byte 0 (R179). -/
theorem putData_byte (s : State) (bytes : List Byte) (k : Fin 32) :
    (s.putData bytes).mgmt.data[k] = (bytes[k.val]?).getD s.mgmt.data[k] := by
  simp [State.putData, State.setMgmt]

/-- READ_REMAP's two answers (R43). -/
theorem exec_readRemap {s : State} {p : Params} (h : s.takes codeReadRemap p) :
    (255 < paramHalf p 0 → exec .readRemap s = .next (s.finished codeReadRemap .badParam))
    ∧ (paramHalf p 0 ≤ 255 →
      exec .readRemap s = .next ((s.putData (s.remapBytes (paramHalf p 0))).finished codeReadRemap .ok)) := by
  rw [execReadRemap_of_takes h, State.readRemap]
  refine ⟨fun above => ?_, fun inside => ?_⟩
  · rw [if_pos (by exact above), busy_complete]
  · have slots : ¬Config.tableSlots ≤ paramHalf p 0 := Nat.not_le.mpr (Nat.lt_succ_of_le inside)
    rw [if_neg slots, busy_completeWith]
    rfl

/-- READ_POOL's two answers (R45). -/
theorem exec_readPool {s : State} {p : Params} (h : s.takes codeReadPool p) :
    (15 < paramByte p 0 → exec .readPool s = .next (s.finished codeReadPool .badParam))
    ∧ (paramByte p 0 ≤ 15 →
      exec .readPool s = .next ((s.putData (s.poolBytes (paramByte p 0))).finished codeReadPool .ok)) := by
  rw [execReadPool_of_takes h, State.readPool]
  refine ⟨fun above => ?_, fun inside => ?_⟩
  · rw [if_neg (mt bankOk_iff.mp (Nat.not_le.mpr above)), busy_complete]
  · rw [if_pos (bankOk_iff.mpr inside), busy_completeWith]
    rfl

/-- Settles O14: each command from its taking; the counts and the pool; the layouts of R179; the bytes of DATA. -/
theorem readRemapAndReadPoolReadOut : Obligations.ReadRemapAndReadPoolReadOut :=
  ⟨fun _ _ => ⟨exec_readRemap, exec_readPool⟩,
    fun r bank => ⟨countSpares_add r bank, pool_rises r bank, rfl, fun _ => mem_pool⟩,
    fun s n => ⟨remapBytes_eq_remapReadout s n, poolBytes_eq_poolReadout s n⟩,
    fun s bytes => ⟨rfl, putData_byte s bytes⟩⟩

section FindRemap

variable (s : State) {bank row : Nat}

/-- FIND_REMAP of an address out of range (R44). -/
theorem State.findRemap_badParam (refused : ¬(bank ≤ 15 ∧ row < 32768 - s.remap.s)) :
    s.findRemap bank row = s.complete .badParam := by
  rw [← bankOk_iff, ← rowOk_iff, ← Bool.and_eq_true] at refused
  exact if_pos (Bool.eq_false_iff.mpr refused)

/-- FIND_REMAP of a row with an entry (R44). -/
theorem State.findRemap_found (valid : bank ≤ 15 ∧ row < 32768 - s.remap.s) {slot : Nat} {e : RemapEntry}
    (found : s.remap.find bank row = some (slot, e)) : s.findRemap bank row = s.completeWith (s.remapBytes slot) := by
  rw [← bankOk_iff, ← rowOk_iff, ← Bool.and_eq_true] at valid
  rw [State.findRemap, if_neg (by rw [valid]; nofun), found]

/-- FIND_REMAP of a row without an entry (R44). -/
theorem State.findRemap_notFound (valid : bank ≤ 15 ∧ row < 32768 - s.remap.s) (missed : s.remap.find bank row = none) :
    s.findRemap bank row = s.complete .notFound := by
  rw [← bankOk_iff, ← rowOk_iff, ← Bool.and_eq_true] at valid
  rw [State.findRemap, if_neg (by rw [valid]; nofun), missed]

end FindRemap

/-- Settles O13: the check, the search by the key, and the translation of a row that the search does not find. -/
theorem findRemapAnswersTheEntry : Obligations.FindRemapAnswersTheEntry := by
  refine ⟨fun s p h => ?_, remapBytes_eq_remapReadout⟩
  intro bank row valid
  rw [execFindRemap_of_takes h]
  refine ⟨fun refused => ?_, fun accepted slot e found => ?_, fun accepted missed => ⟨?_, fun column inside => ?_⟩⟩
  · rw [State.findRemap_badParam (s.busy codeFindRemap p) refused, busy_complete]
  · rw [State.findRemap_found (s.busy codeFindRemap p) accepted found, busy_completeWith]
    rfl
  · rw [State.findRemap_notFound (s.busy codeFindRemap p) accepted missed, busy_complete]
  · have bounded : bank < 16 := Nat.lt_succ_of_le accepted.1
    have missed : s.remap.find (bankOf (lineOf row bank column)) (rowOf (lineOf row bank column)) = none := by
      rw [bankOf_lineOf bounded inside, rowOf_lineOf bounded inside, missed]
    rw [(State.translate_of_find_none missed).1, rowOf_lineOf bounded inside]
    exact PhysAddr.onLine_lineOf bounded inside row

end Sys2Proof.Machine
end

section
/-! THEOREMS. The injection unit: its two commands, and the slots that a read matches and fires (R37, R119 to R126). -/

namespace Sys2Proof.Machine

/-! ### SET_INJECT and CLEAR_INJECT (R124, R125) -/

theorem injectColumnOf_eq (b : Nat) :
    injectColumnOf b = if b ≤ 127 ∨ b = 255 then some (if b = 255 then .any else .column b) else none := by
  unfold injectColumnOf
  by_cases line : b < 128
  · rw [if_pos line, if_pos (.inl (Nat.le_of_lt_succ line)), if_neg (by omega)]
  · rw [if_neg line]
    by_cases any : b = 255
    · rw [if_pos any, if_pos (.inr any), if_pos any]
    · rw [if_neg any, if_neg (by omega)]

theorem injectOutcomeOf_eq (n : Nat) :
    injectOutcomeOf n = if n ≤ 1 then some (if n = 0 then .corrected else .uncorrectable) else none := by
  match n with
  | 0 | 1 => rfl
  | n + 2 => simp [injectOutcomeOf]

theorem injectModeOf_eq (n : Nat) :
    injectModeOf n = if n ≤ 2 then some (if n = 0 then .oneShot else if n = 1 then .periodic else .continuous) else none := by
  match n with
  | 0 | 1 | 2 => rfl
  | n + 3 => simp [injectModeOf]

/-- The parameters describe a slot: the address of an armed slot, the column, the outcome, the mask, the mode and n are in range
(R124). -/
def injectValid (reservation : Nat) (p : Params) : Prop :=
  (paramByte p 1 = 1 → paramByte p 2 ≤ 15 ∧ paramHalf p 3 < 32768 - reservation)
    ∧ paramByte p 1 ≤ 1 ∧ (paramByte p 5 ≤ 127 ∨ paramByte p 5 = 255) ∧ paramByte p 6 ≤ 1
    ∧ 1 ≤ paramByte p 7 ∧ paramByte p 7 ≤ 7 ∧ paramByte p 8 ≤ 2 ∧ (paramByte p 8 ≤ 1 → 1 ≤ paramByte p 9)

/-- The slot that the parameters describe (R124, R178). -/
def injectSlot (p : Params) : InjectSlot :=
  { armed := paramByte p 1 == 1, bank := paramByte p 2, row := paramHalf p 3
    column := if paramByte p 5 = 255 then .any else .column (paramByte p 5)
    outcome := if paramByte p 6 = 0 then .corrected else .uncorrectable
    onUpstream := (paramByte p 7).testBit 0, onPatrol := (paramByte p 7).testBit 1, onCopy := (paramByte p 7).testBit 2
    mode := if paramByte p 8 = 0 then .oneShot else if paramByte p 8 = 1 then .periodic else .continuous
    n := paramByte p 9, count := 0 }

theorem injectCountOk_iff {n k : Nat} (known : n ≤ 2) :
    injectCountOk (if n = 0 then .oneShot else if n = 1 then .periodic else .continuous) k = true ↔ (n ≤ 1 → 1 ≤ k) := by
  interval_cases n <;> simp [injectCountOk, Nat.one_le_iff_ne_zero]

section InjectSlotOf

variable {reservation : Nat} {p : Params}

theorem injectSlotOf_of_valid (h : injectValid reservation p) : injectSlotOf reservation p = some (injectSlot p) := by
  obtain ⟨address, armed, column, outcome, some_, few, mode, count⟩ := h
  have addressed : (paramByte p 1 == 1 && !(bankOk (paramByte p 2) && rowOk reservation (paramHalf p 3))) = false := by
    by_cases on : paramByte p 1 = 1
    · obtain ⟨bank, row⟩ := address on
      simp [bankOk_iff.mpr bank, rowOk_iff.mpr row]
    · simp [on]
  simp only [injectSlotOf, onOff_eq, injectColumnOf_eq, injectOutcomeOf_eq, injectModeOf_eq, if_pos armed, if_pos column,
    if_pos outcome, if_pos mode]
  rw [if_neg (by rw [addressed]; nofun), if_pos ⟨some_, few, (injectCountOk_iff mode).mpr count⟩]
  rfl

theorem injectSlotOf_of_not_valid (h : ¬injectValid reservation p) : injectSlotOf reservation p = none := by
  unfold injectSlotOf
  split
  · rename_i h1 h5 h6 h8
    simp only [onOff_eq, injectColumnOf_eq, injectOutcomeOf_eq, injectModeOf_eq, Option.ite_none_right_eq_some,
      Option.some.injEq] at h1 h5 h6 h8
    obtain ⟨armed, rfl⟩ := h1
    obtain ⟨mode, rfl⟩ := h8
    dsimp only
    split
    · rfl
    · rename_i addressed
      refine if_neg fun ⟨some_, few, count⟩ => h ⟨fun on => ?_, armed, h5.left, h6.left, some_, few, mode,
        (injectCountOk_iff mode).mp count⟩
      rw [← bankOk_iff, ← rowOk_iff, ← Bool.and_eq_true]
      simpa [on] using addressed
  · rfl

end InjectSlotOf

section InjectCommands

variable {s : State} {p : Params}

theorem execSetInject_of_takes (h : s.takes codeSetInject p) :
    exec .setInject s = .next ((s.busy codeSetInject p).setInject (paramByte p 0) (injectSlotOf s.remap.s p)) :=
  congrArg _ (runCommand_of_takes _ h)

theorem execClearInject_of_takes (h : s.takes codeClearInject p) :
    exec .clearInject s = .next ((s.busy codeClearInject p).clearInject (paramByte p 0)) :=
  congrArg _ (runCommand_of_takes _ h)

/-- SET_INJECT's two answers (R124). -/
theorem exec_setInject (h : s.takes codeSetInject p) :
    (¬(paramByte p 0 ≤ 3 ∧ injectValid s.remap.s p) → exec .setInject s = .next (s.finished codeSetInject .badParam))
    ∧ (paramByte p 0 ≤ 3 ∧ injectValid s.remap.s p → exec .setInject s = .next (State.finished
        { s with inject := s.inject.setIfInBounds (paramByte p 0) (injectSlot p) } codeSetInject .ok)) := by
  rw [execSetInject_of_takes h]
  refine ⟨fun refused => ?_, fun ⟨inside, valid⟩ => ?_⟩
  · by_cases valid : injectValid s.remap.s p
    · have outside : ¬paramByte p 0 < 4 := fun inside => refused ⟨Nat.le_of_lt_succ inside, valid⟩
      rw [injectSlotOf_of_valid valid, State.setInject, dif_neg outside, busy_complete]
    · rw [injectSlotOf_of_not_valid valid, State.setInject, busy_complete]
  · rw [injectSlotOf_of_valid valid, State.setInject, dif_pos (Nat.lt_succ_of_le inside), vector_set_eq_setIfInBounds]
    rfl

/-- CLEAR_INJECT's two answers (R125). -/
theorem exec_clearInject (h : s.takes codeClearInject p) :
    (3 < paramByte p 0 → exec .clearInject s = .next (s.finished codeClearInject .badParam))
    ∧ ∀ k : Fin 4, paramByte p 0 = k.val → exec .clearInject s = .next (State.finished
        { s with inject := s.inject.set k.val { s.inject[k] with armed := false, count := 0 } } codeClearInject .ok) := by
  rw [execClearInject_of_takes h]
  refine ⟨fun above => ?_, fun k found => ?_⟩
  · rw [State.clearInject, dif_neg (Nat.not_lt.mpr above), busy_complete]
  · rw [found, State.clearInject, dif_pos k.isLt]
    rfl

end InjectCommands

/-! ### Matches and firing (R120, R121) -/

/-- The origins of reads by the owner of their work: a fallback read is matched as an upstream one (R120). -/
theorem covers_phaseOrigin (x : InjectSlot) (w : Work) : x.covers (phaseOrigin w) = true ↔
    match w.owner with
    | .copy => x.onCopy = true
    | .patrol => x.onPatrol = true
    | .upstream _ _ => x.onUpstream = true := by
  unfold phaseOrigin
  cases w.owner with
  | copy => rfl
  | patrol => rfl
  | upstream tag attached => by_cases second : w.phase = .fallbackRead <;> simp [second, InjectSlot.covers]

theorem InjectSlot.fires_iff (x : InjectSlot) : x.fires = true ↔ x.mode = .continuous ∨ x.n ≤ x.count + 1 := by
  unfold InjectSlot.fires
  cases x.mode <;> simp

/-- What a match leaves of a slot, by its mode (R121). -/
theorem InjectSlot.afterMatch_eq (x : InjectSlot) :
    (x.mode = .oneShot → x.afterMatch = { x with count := x.count + 1, armed := decide (x.count + 1 < x.n) })
    ∧ (x.mode = .periodic → x.afterMatch = { x with count := if x.n ≤ x.count + 1 then 0 else x.count + 1 })
    ∧ (x.mode = .continuous → x.afterMatch = { x with count := min (x.count + 1) 255 }) := by
  refine ⟨fun mode => ?_, fun mode => ?_, fun mode => ?_⟩
  · simp [InjectSlot.afterMatch, InjectSlot.fires, mode, ← decide_not]
  · simp [InjectSlot.afterMatch, InjectSlot.fires, mode]
  · simp [InjectSlot.afterMatch, mode]

/-- A read completion of the present epoch is accepted by its slot's read (R130). -/
theorem execReadCompletion_accepted {s : State} {i : SlotNo} {w : Work} (leg : Bool) (line : StoredLine)
    (work : (s.slot i).work = some w) (read : w.phase ≠ .write) :
    exec (.readCompletion i (s.slot i).epoch leg line) s = .next (s.acceptRead i w line) := by
  show execReadCompletion i (s.slot i).epoch leg line s = _
  unfold execReadCompletion
  rw [work]
  exact if_pos ⟨rfl, read⟩

/-- An accepted read changes the injection unit by the matches that it counts alone (R121). -/
theorem State.acceptRead_inject (s : State) (i : SlotNo) {w : Work} (line : StoredLine) (live : w.stage ≠ .orphan) :
    (s.acceptRead i w line).inject = (s.countMatches (phaseOrigin w) w.line).inject := by
  have counted : (s.clearTimeouts.countMatches w.origin w.line).inject = (s.countMatches (phaseOrigin w) w.line).inject := rfl
  rw [State.acceptRead, if_neg live, ← counted]
  cases w.owner <;> simp

/-- Every slot that a read matches counts the match, and the others stay (R121). -/
theorem State.countMatches_slot (s : State) (origin : Origin) (line : Nat) (k : Fin 4) :
    (s.countMatches origin line).inject[k] =
      if s.inject[k].matchesRead s.remap.s origin line then s.inject[k].afterMatch else s.inject[k] := by
  simp [State.countMatches]

/-- The outcomes that reach a read are those of the slots that it matches and fires (R121). -/
theorem State.mem_firedBy (s : State) (origin : Origin) (line : Nat) (o : InjectOutcome) : o ∈ s.firedBy origin line ↔
    ∃ k : Fin 4, s.inject[k].matchesRead s.remap.s origin line = true ∧ s.inject[k].fires = true
      ∧ s.inject[k].outcome = o := by
  simp only [State.firedBy, List.mem_map, List.mem_filter, Bool.and_eq_true, Vector.mem_toList_iff, Vector.mem_iff_getElem]
  constructor
  · rintro ⟨_, ⟨⟨k, hk, rfl⟩, matched, fires⟩, outcome⟩
    exact ⟨⟨k, hk⟩, matched, fires, outcome⟩
  · rintro ⟨k, matched, fires, outcome⟩
    exact ⟨s.inject[k], ⟨⟨k, k.isLt, rfl⟩, matched, fires⟩, outcome⟩

/-- Settles O49: the two commands, then the matches that an accepted read counts and the outcomes that it fires. -/
theorem injectCommandsSetTheSlots : Obligations.InjectCommandsSetTheSlots := by
  refine ⟨fun s p => ⟨fun h => ?_, exec_clearInject⟩, fun s i w leg line work live read => ?_⟩
  · intro n valid
    have same : valid ↔ paramByte p 0 ≤ 3 ∧ injectValid s.remap.s p := and_left_comm
    rw [same]
    exact exec_setInject h
  · intro matched
    have matched_iff (x : InjectSlot) : x.matchesRead s.remap.s (phaseOrigin w) w.line = true ↔ matched x := by
      have rule := matchesRead_iff x s.remap.s (phaseOrigin w) w.line
      rw [covers_phaseOrigin] at rule
      exact rule
    refine ⟨⟨_, execReadCompletion_accepted leg line work read, fun k => ?_⟩, fun o => ?_, rfl⟩
    · intro x
      obtain ⟨oneShot, periodic, continuous⟩ := x.afterMatch_eq
      rw [State.acceptRead_inject s i line live, State.countMatches_slot]
      refine ⟨fun missed => if_neg (mt (matched_iff x).mp missed), fun hit mode => ?_, fun hit mode => ?_, fun hit mode => ?_⟩
      · exact (if_pos ((matched_iff x).mpr hit)).trans (oneShot mode)
      · exact (if_pos ((matched_iff x).mpr hit)).trans (periodic mode)
      · exact (if_pos ((matched_iff x).mpr hit)).trans (continuous mode)
    · simp only [State.mem_firedBy, matched_iff, InjectSlot.fires_iff]

end Sys2Proof.Machine
end

section
/-! THEOREMS. WARM_RESET (R29, R46, R71, R106, R119, R140, R155, R159, R177). -/

namespace Sys2Proof.Machine

section WarmReset

variable (s : State)

/-- The CREDIT of a port with credits pending, while the link is up (R143). -/
theorem State.sendCredit_eq : s.sendCredit =
    { s with ctl := { s.ctl with
        g := if s.ctl.linkUp = true ∧ s.ctl.p ≠ 0 then s.ctl.g + s.ctl.p else s.ctl.g
        p := if s.ctl.linkUp = true ∧ s.ctl.p ≠ 0 then 0 else s.ctl.p
        out := s.ctl.out ++ if s.ctl.linkUp = true ∧ s.ctl.p ≠ 0 then [.credit s.ctl.p] else [] } } := by
  have silent : (s.ctl.p = 0 ∨ s.ctl.linkUp = false) ↔ ¬(s.ctl.linkUp = true ∧ s.ctl.p ≠ 0) := by
    rw [not_and_or, not_not, Bool.not_eq_true, or_comm]
  by_cases sends : s.ctl.linkUp = true ∧ s.ctl.p ≠ 0
  · rw [State.sendCredit, if_neg fun h => silent.mp h sends]
    simp only [if_pos sends]
  · rw [State.sendCredit, if_pos (silent.mpr sends)]
    simp only [if_neg sends, List.append_nil]

/-- The controller port: the gate CLOSED, every entry answered with RESET, the credits sent (R155, R159). -/
theorem State.warmController_eq :
    let credits := s.ctl.p + s.ctl.irq.length
    let sends := s.ctl.linkUp = true ∧ credits ≠ 0
    s.warmController = { s with ctl := { s.ctl with
      gate := .closed, irq := [], g := if sends then s.ctl.g + credits else s.ctl.g, p := if sends then 0 else credits
      out := s.ctl.out ++ s.ctl.irq.map (fun e => e.failed .reset) ++ if sends then [.credit credits] else [] } } := by
  intro credits sends
  rw [State.warmController, State.sendCredit_eq]
  simp only [IrqEntry.failed_eq]
  rfl

/-- The engine and its queue leave the ports as the engine's operations do. -/
theorem State.Steady.warmEngine : s.Steady s.warmEngine := by
  unfold State.warmEngine
  split
  · exact (State.Steady.abort s .warmReset).trans (.of_same rfl rfl rfl)
  · exact .of_same rfl rfl rfl

@[simp] theorem State.warmEngine_engine : s.warmEngine.engine = none := by
  unfold State.warmEngine
  split
  · exact s.abort_engine .warmReset
  · rename_i idle
    simpa using idle

@[simp] theorem State.warmEngine_srq : s.warmEngine.srq = [] := rfl

/-- With the engine IDLE the queue alone is emptied. -/
theorem State.warmEngine_of_idle (idle : s.engine = none) : s.warmEngine = { s with srq := [] } := by
  simp [State.warmEngine, idle]

/-- A migration in progress is aborted, and the queue emptied (R46, R71). -/
theorem State.warmEngine_of_engine {c : EngineCtx} (engine : s.engine = some c) :
    s.warmEngine = { s.abort .warmReset with srq := [] } := by
  simp [State.warmEngine, engine]

/-- The legs that await completion stay the same over an abort: an orphan keeps its legs (R68, R140). -/
theorem State.abort_drainLegs (y : AbortReason) (i : SlotNo) : ((s.abort y).slot i).drainLegs i = (s.slot i).drainLegs i := by
  have orphaned : (s.orphanCopy.slot i).drainLegs i = (s.slot i).drainLegs i := by
    rw [State.orphanCopy_slot]
    cases work : (s.slot i).work with
    | none => rfl
    | some w =>
      dsimp only
      split
      · simp only [MediaSlot.drainLegs, work]
      · rfl
  unfold State.abort
  split
  · rfl
  · rw [← orphaned]
    congr 1
    exact State.slot_congr (by simp) i

theorem State.warmEngine_drainLegs (i : SlotNo) : (s.warmEngine.slot i).drainLegs i = (s.slot i).drainLegs i := by
  unfold State.warmEngine
  split
  · exact s.abort_drainLegs .warmReset i
  · rfl

/-- An abort sets LOG_OVERFLOW at most (R162). -/
theorem State.abort_flags (y : AbortReason) : (s.abort y).flags = s.flags ∨ (s.abort y).flags = s.flags ||| 0x0002 := by
  cases found : s.engineEntry with
  | none => exact .inl (by rw [State.abort, found])
  | some x =>
    obtain ⟨engine, entry⟩ := engineEntry_some (c := x.1) (e := x.2) found
    obtain ⟨-, -, flags⟩ := State.abort_reports y engine entry
    rw [flags, State.offerRecord_flags]
    split
    · exact .inl rfl
    · exact .inr rfl

/-- GATE_CLOSED is bit 9 of the flags (R174). -/
theorem State.flag_gateClosed : s.flag .gateClosed = s.flags.getLsbD 9 := by
  have named : (0x07FE#16).getLsbD 9 = true := by decide
  have log : (if s.log.records.isEmpty then 0#16 else 1#16).getLsbD 9 = false := by split <;> decide
  show ((s.flags &&& 0x07FE#16) ||| if s.log.records.isEmpty then 0#16 else 1#16).getLsbD 9 = _
  rw [BitVec.getLsbD_or, BitVec.getLsbD_and, named, log, Bool.and_true, Bool.or_false]

/-- The end of the engine's work leaves GATE_CLOSED (R155, R159). -/
theorem State.warmEngine_gateClosed : s.warmEngine.flags.getLsbD 9 = s.flags.getLsbD 9 := by
  cases engine : s.engine with
  | none => rw [s.warmEngine_of_idle engine]
  | some c =>
    rw [s.warmEngine_of_engine engine]
    show (s.abort .warmReset).flags.getLsbD 9 = _
    have overflow : (0x0002 : BitVec 16).getLsbD 9 = false := by decide
    rcases s.abort_flags .warmReset with flags | flags <;> rw [flags]
    rw [BitVec.getLsbD_or, overflow, Bool.or_false]

/-- The legs outstanding, in the order of the slots (R140). -/
theorem State.outstanding_congr {a b : State} (h : ∀ i, (a.slot i).drainLegs i = (b.slot i).drainLegs i) :
    a.outstanding = b.outstanding := by
  simp only [State.outstanding, h]

/-- The patrol, the injection unit, the media port and the command's own end: OK at once with no leg outstanding, else BUSY (R106,
R119, R140, R177). -/
theorem State.warmRest_eq : s.stopPatrol.warmInject.warmMedia.warmComplete =
    { s with
      patrol := { s.patrol with state := .stopped, due := false, cancel := false, timer := none }
      inject := s.warmInject.inject
      media :=
        { slots := s.warmMedia.media.slots, failed := false, timeouts := 0, out := s.media.out
          drain := if s.outstanding = [] then none else some { legs := s.outstanding, start := s.us } }
      mgmt :=
        if s.outstanding = [] then { s.mgmt with result := .ok, running := none }
        else { s.mgmt with running := s.mgmt.running.map fun r => { r with taken := true } } } := by
  have legs : s.stopPatrol.warmInject.outstanding = s.outstanding := rfl
  by_cases quiet : s.outstanding = []
  · rw [State.warmComplete, State.warmMedia]
    simp only [legs, if_pos quiet]
    rfl
  · rw [State.warmComplete, State.warmMedia]
    simp only [legs, if_neg quiet]
    rfl

end WarmReset

/-- The slots of the injection unit after a warm reset (R119). -/
theorem State.warmInject_slot (s : State) (k : Fin 4) :
    s.warmInject.inject[k] = { s.inject[k] with armed := false, count := 0 } := by
  simp [State.warmInject]

/-- The media slots after a warm reset (R140). -/
theorem State.warmMedia_slot (s : State) (i : SlotNo) : s.warmMedia.slot i = { epoch := (s.slot i).epoch + 1, work := none } := by
  simp [State.warmMedia, State.slot]

/-- The engine's work at a warm reset leaves a controller port whose queue is answered as it is. -/
theorem State.warmEngine_ctl (s : State) (answered : s.ctl.irq = []) : s.warmEngine.ctl = s.ctl := by
  obtain ⟨f, -, ctl⟩ := (State.Steady.warmEngine s).queue
  rw [ctl, answered, List.map_nil, ← answered]

/-- What a record leaves in the log, the counters and the flags depends on these three alone (R162). -/
theorem State.offerRecord_congr {a b : State} (log : a.log = b.log) (counters : a.counters = b.counters) (flags : a.flags = b.flags)
    (o : Offer) : (a.offerRecord o).log = (b.offerRecord o).log ∧ (a.offerRecord o).counters = (b.offerRecord o).counters
      ∧ (a.offerRecord o).flags = (b.offerRecord o).flags := by
  simp only [State.offerRecord_log, State.offerRecord_counters, State.offerRecord_flags, log, counters, flags, and_self]

/-- Settles O44: the controller port first, the engine by its abort, then the other blocks; each clause from what they leave. -/
theorem warmResetEndsTheWorkInFlight : Obligations.WarmResetEndsTheWorkInFlight := by
  intro s p h credits sends legs
  obtain ⟨w, hw⟩ : ∃ w, (s.busy codeWarmReset p).warmController = w := ⟨_, rfl⟩
  have ran : exec .warmReset s = .next w.warmEngine.stopPatrol.warmInject.warmMedia.warmComplete :=
    hw ▸ congrArg Host.Outcome.next (runCommand_of_takes _ h)
  rw [State.warmController_eq] at hw
  have remap : w.remap = s.remap := hw ▸ rfl
  have reports : w.log = s.log ∧ w.counters = s.counters ∧ w.flags = s.flags := hw ▸ ⟨rfl, rfl, rfl⟩
  have now : w.now = s.now := hw ▸ rfl
  have slots (i : SlotNo) : w.slot i = s.slot i := hw ▸ rfl
  have outstanding : w.warmEngine.outstanding = legs :=
    State.outstanding_congr (b := s) fun i => (w.warmEngine_drainLegs i).trans (by rw [slots])
  have us : w.warmEngine.us = s.us := by simp [← hw]
  have mgmt : w.warmEngine.mgmt = (s.busy codeWarmReset p).mgmt := by simp [← hw]
  have ctl : w.warmEngine.ctl = w.ctl := w.warmEngine_ctl (hw ▸ rfl)
  have out : w.warmEngine.media.out = s.media.out := by
    rw [(State.Steady.warmEngine w).port, ← hw]
    rfl
  rw [ran, State.warmRest_eq, outstanding, us]
  refine ⟨_, rfl, ?_, fun k => ?_, fun i => ?_, ?_, fun idle => ?_, fun c e engine entry => ?_⟩
  · refine State.same rfl rfl ?_ w.warmEngine_srq w.warmEngine_engine ?_ ?_ rfl ?_ ?_ rfl rfl rfl ?_ ?_ ?_ ?_
    · simp [← hw]
    · simp [← hw]
    · simp [← hw]
    · simp [out]
    · rw [ctl, ← hw]
      rfl
    · simp [← hw]
    · rw [mgmt]
      rfl
    · simp [← hw]
    · simp [← hw]
  · rw [State.warmInject_slot]
    simp [← hw]
  · refine (State.warmMedia_slot _ i).trans ?_
    rw [(State.Steady.warmEngine w).epochs, slots]
  · rw [State.flag_gateClosed, State.flag_gateClosed, ← reports.2.2]
    exact w.warmEngine_gateClosed
  · rw [w.warmEngine_of_idle (hw ▸ idle)]
    exact ⟨remap, reports⟩
  · have engine : w.engine = some c := hw ▸ engine
    rw [← remap] at entry
    rw [w.warmEngine_of_engine engine]
    have record : w.abortRecord c e .warmReset = s.abortRecord c e .warmReset := by
      simp only [State.abortRecord, State.spareAddr, now, remap]
    obtain ⟨log, counters, flags⟩ := State.abort_reports .warmReset engine entry
    obtain ⟨log', counters', flags'⟩ := State.offerRecord_congr reports.1 reports.2.1 reports.2.2 (s.abortRecord c e .warmReset)
    have slot := State.abort_entryAt .warmReset engine entry
    have spare := State.abort_spareState .warmReset engine entry
    obtain ⟨reservation, mark⟩ := State.abort_remap_rest .warmReset engine entry
    rw [record] at log counters flags
    rw [remap] at slot spare reservation mark
    rw [now] at slot
    exact ⟨log.trans log', counters.trans counters', flags.trans flags', reservation, mark,
      fun n other => (slot n).trans (if_neg other), (slot c.entrySlot).trans (if_pos rfl),
      (spare e.bank c.dest).trans (if_pos ⟨rfl, rfl⟩), fun b k other => (spare b k).trans (if_neg other)⟩

end Sys2Proof.Machine
end

section
/-! THEOREMS. The engine's taking of the head request (R27, R28, R33, R49 to R53, R73), and SPARE_ROW to an IDLE engine (R48). -/

namespace Sys2Proof.Machine

section EngineTake

variable {s : State} {r : SpareRequest} {rest : List SpareRequest}

/-! ### Validation of the head request (R50) -/

/-- A request of an offer for a row whose region does not allow automatic sparing is refused (R50). -/
theorem State.validate_policy (port : s.media.failed = false)
    (policy : r.cause ≠ .command ∧ (s.policy r.row).autospare = false) : s.validate r = .refuse .policy := by
  simp only [State.validate, port, Bool.false_eq_true, if_false, if_pos policy]

/-- A new sparing needs a FREE slot (R50). -/
theorem State.validate_tableFull (port : s.media.failed = false)
    (allowed : ¬(r.cause ≠ .command ∧ (s.policy r.row).autospare = false)) (missed : s.remap.find r.bank r.row = none)
    (full : s.remap.freeSlot = none) : s.validate r = .refuse .tableFull := by
  simp only [State.validate, port, Bool.false_eq_true, if_false, if_neg allowed, missed, full]

/-- A sparing needs a FREE spare (R50). -/
theorem State.validate_poolEmpty (port : s.media.failed = false)
    (allowed : ¬(r.cause ≠ .command ∧ (s.policy r.row).autospare = false))
    (placed : s.remap.find r.bank r.row ≠ none ∨ s.remap.freeSlot ≠ none) (empty : s.remap.pool r.bank = []) :
    s.validate r = .refuse .poolEmpty := by
  simp only [State.validate, port, Bool.false_eq_true, if_false, if_neg allowed, empty, List.head?_nil]
  cases missed : s.remap.find r.bank r.row with
  | some x => rfl
  | none =>
    obtain ⟨n, free⟩ := Option.ne_none_iff_exists'.mp (placed.resolve_left (not_not_intro missed))
    rw [free]

/-- A new sparing takes the lowest FREE slot and the lowest FREE spare (R50). -/
theorem State.validate_new (port : s.media.failed = false)
    (allowed : ¬(r.cause ≠ .command ∧ (s.policy r.row).autospare = false)) (missed : s.remap.find r.bank r.row = none)
    {n k : Nat} (free : s.remap.freeSlot = some n) (lowest : (s.remap.pool r.bank).head? = some k) :
    s.validate r = .start n none k := by
  simp only [State.validate, port, Bool.false_eq_true, if_false, if_neg allowed, missed, free, lowest]

/-- A re-spare takes the row's own slot and the lowest FREE spare (R50). -/
theorem State.validate_respare (port : s.media.failed = false)
    (allowed : ¬(r.cause ≠ .command ∧ (s.policy r.row).autospare = false)) {n k : Nat} {e : RemapEntry}
    (found : s.remap.find r.bank r.row = some (n, e)) (lowest : (s.remap.pool r.bank).head? = some k) :
    s.validate r = .start n (some e) k := by
  simp only [State.validate, port, Bool.false_eq_true, if_false, if_neg allowed, found, lowest]

/-! ### The taking (R49, R51) -/

/-- Outside IDLE, with no request and with the port FAILED the engine takes nothing (R49). -/
theorem State.engineTake_eq_self (h : s.engine ≠ none ∨ s.srq = [] ∨ s.media.failed = true) : s.engineTake = s := by
  unfold State.engineTake
  cases s.srq.length with
  | zero => rfl
  | succ n =>
    unfold engineTakeFuel
    split
    · rename_i idle queued
      have port : s.media.failed = true := (h.resolve_left (not_not_intro idle)).resolve_left (by rw [queued]; nofun)
      simp only [State.validate, port, if_true]
    · rfl

/-- A refused head request is followed by the next (R51). -/
theorem State.engineTake_refuse (idle : s.engine = none) (queued : s.srq = r :: rest) {reason : RefusalReason}
    (verdict : s.validate r = .refuse reason) :
    s.engineTake = (State.refuseRequest { s with srq := rest } r reason).engineTake := by
  have length : (State.refuseRequest { s with srq := rest } r reason).srq = rest := by simp
  rw [State.engineTake, State.engineTake, length, queued, List.length_cons, engineTakeFuel]
  simp only [idle, queued, verdict]

/-- A head request that passes starts (R53). -/
theorem State.engineTake_start (idle : s.engine = none) (queued : s.srq = r :: rest) {n k : Nat} {old : Option RemapEntry}
    (verdict : s.validate r = .start n old k) :
    s.engineTake = State.startMigration { s with srq := rest } r n old k := by
  rw [State.engineTake, queued, List.length_cons, engineTakeFuel]
  simp only [idle, queued, verdict]

/-! ### The start (R28, R53, R73) -/

/-- The record of a start (R73). -/
def State.startRecord (s : State) (r : SpareRequest) (n k : Nat) : Offer :=
  { kind := .spareStarted, time := s.now, origin := .engine, injected := false, line := some (lineOf r.row r.bank 0)
    phys := some { bank := r.bank, row := 32768 - s.remap.s + k, column := none }, slot := some n, detail := causeByte r.cause }

/-- The engine's context at a start (R53). -/
def State.startContext (s : State) (r : SpareRequest) (n k : Nat) (source : Source) : EngineCtx :=
  { state := .waitSlot, entrySlot := n, source := source, dest := k, cursor := 0, restarts := 0, cause := r.cause
    startTime := s.now, poisoned := 0 }

/-- A start with entry `e` in slot `n` and spare `k`: the claim, the context, and the flags and the record that R27, R33 and R73
call for; `full` is TABLE_FULL where the entry fills the last slot. -/
def State.started (s : State) (r : SpareRequest) (n k : Nat) (source : Source) (e : RemapEntry) (full : BitVec 16) : State :=
  let remap := s.remap.claim n e r.bank k .assigned
  let told := s.offerRecord (s.startRecord r n k)
  { s with
    remap := remap, engine := some (s.startContext r n k source), log := told.log, counters := told.counters
    flags := told.flags ||| full ||| (if (remap.pool r.bank).length < s.remap.lowWater then 0x0020 else 0) }

theorem SpareCause.code_eq (c : SpareCause) : c.code = causeByte c := by
  cases c <;> rfl

/-- A record offered after flags are set leaves what one offered before leaves (R162). -/
theorem State.offerRecord_flagged (s : State) (remap : Remap) (engine : Option EngineCtx) (added : BitVec 16) (o : Offer) :
    State.offerRecord { s with remap := remap, engine := engine, flags := s.flags ||| added } o =
      { s with
        remap := remap, engine := engine, log := (s.offerRecord o).log, counters := (s.offerRecord o).counters
        flags := (s.offerRecord o).flags ||| added } := by
  by_cases room : s.log.records.length < Config.logPlaces
  · simp only [State.offerRecord, if_pos room]
  · have swapped : s.flags ||| added ||| 0x0002 = s.flags ||| 0x0002 ||| added := by
      rw [BitVec.or_assoc, BitVec.or_comm added, BitVec.or_assoc]
    simp only [State.offerRecord, if_neg room]
    exact State.same rfl rfl rfl rfl rfl rfl rfl rfl rfl rfl rfl rfl swapped rfl rfl rfl rfl

/-- The claim made, a start takes the spare, loads the context and writes its record (R53). -/
theorem State.started_eq (s : State) (r : SpareRequest) (n k : Nat) (source : Source) (e : RemapEntry) (full : BitVec 16) :
    let claimed : State :=
      { s with remap := { s.remap with table := Machine.putEntry n e s.remap.table }, flags := s.flags ||| full }
    State.offerRow { claimed.assignSpare r.bank k with engine := some (s.startContext r n k source) } .spareStarted .engine r.bank
      r.row (some (s.spareAddr r.bank k)) (some n) r.cause.code = s.started r n k source e full := by
  intro claimed
  have told := s.offerRecord_flagged (s.remap.claim n e r.bank k .assigned) (some (s.startContext r n k source))
    (full ||| if ((s.remap.claim n e r.bank k .assigned).pool r.bank).length < s.remap.lowWater then 0x0020 else 0)
    (s.startRecord r n k)
  simp only [← BitVec.or_assoc] at told
  rw [State.assignSpare_eq, State.offerRow, SpareCause.code_eq]
  exact told

/-- The start of a new sparing (R28). -/
theorem State.startMigration_new {n k : Nat} (free : s.remap.freeSlot = some n) :
    s.startMigration r n none k = s.started r n k .original
      { bank := r.bank, row := r.row, dest := k, state := .migrating .original, origin := .migrated, generation := 0
        time := s.now } (if s.remap.table.length = 255 then 0x0040 else 0) := by
  rw [← State.started_eq, ← State.createEntry_eq s free]
  simp [State.startMigration, State.startContext, State.now, State.spareAddr]

/-- The start of a re-spare (R28). -/
theorem State.startMigration_respare {n k : Nat} {e : RemapEntry} :
    s.startMigration r n (some e) k = s.started r n k (.spare e.dest)
      { e with state := .migrating (.spare e.dest), dest := k, time := s.now } 0 := by
  rw [← State.started_eq]
  simp [State.startMigration, State.startContext, State.now, State.spareAddr, State.putEntry]

/-- What a start leaves of the table and the pools, and what it reports (R28, R31, R53). -/
theorem State.started_spec {t : State} {n k : Nat} {source : Source} {e : RemapEntry} {full : BitVec 16}
    (started : t = State.started { s with srq := rest } r n k source e full) :
    t = { s with
        remap := t.remap, srq := rest, engine := some (s.startContext r n k source)
        log := (s.offerRecord (s.startRecord r n k)).log, counters := (s.offerRecord (s.startRecord r n k)).counters
        flags := (s.offerRecord (s.startRecord r n k)).flags ||| full
          ||| (if (t.remap.pool r.bank).length < s.remap.lowWater then 0x0020 else 0) }
      ∧ t.remap.s = s.remap.s ∧ t.remap.lowWater = s.remap.lowWater
      ∧ t.remap.entryAt n = some e ∧ (∀ m, m ≠ n → t.remap.entryAt m = s.remap.entryAt m)
      ∧ t.remap.spareState r.bank k = .assigned
      ∧ ∀ b i, ¬(b = r.bank ∧ i = k) → t.remap.spareState b i = s.remap.spareState b i := by
  have claimed : t.remap = s.remap.claim n e r.bank k .assigned := started ▸ rfl
  have slot := entryAt_claim s.remap n e r.bank k .assigned
  have state := spareState_claim s.remap n e r.bank k .assigned
  obtain ⟨log, counters, flags⟩ := State.offerRecord_congr (a := { s with srq := rest }) (b := s) rfl rfl rfl
    (s.startRecord r n k)
  rw [claimed]
  refine ⟨?_, rfl, rfl, (slot n).trans (if_pos rfl), fun m other => (slot m).trans (if_neg other),
    (state r.bank k).trans (if_pos ⟨rfl, rfl⟩), fun b i other => (state b i).trans (if_neg other)⟩
  rw [started, ← log, ← counters, ← flags]
  rfl

end EngineTake

/-! ### SPARE_ROW (R47, R48) -/

theorem execSpareRow_of_takes {s : State} {p : Params} (h : s.takes codeSpareRow p) :
    exec .spareRow s = .next ((s.busy codeSpareRow p).spareRow (paramByte p 0) (paramHalf p 1)) :=
  congrArg _ (runCommand_of_takes _ h)

/-- SPARE_ROW on a visible row that is not in migration, with an empty queue: the request is queued and the engine takes it
if it can (R47, R48, R49). -/
theorem State.spareRow_alone (s : State) {bank row : Nat} (inside : bank ≤ 15) (visible : row < 32768 - s.remap.s)
    (alone : s.srq = []) (still : ∀ x ∈ s.remap.table, x.2.isMigrating = true → ¬(x.2.bank = bank ∧ x.2.row = row)) :
    s.spareRow bank row =
      (State.engineTake { s with srq := [{ bank := bank, row := row, cause := .command }] }).complete .queued := by
  have fresh : s.isDuplicate bank row = false := by
    simpa [State.isDuplicate, alone] using fun n e member => still (n, e) member
  have address : (bankOk bank && rowOk s.remap.s row) = true := by
    rw [Bool.and_eq_true, bankOk_iff, rowOk_iff]
    exact ⟨inside, visible⟩
  have shown : ¬visibleRows s.remap.s ≤ row := Nat.not_le.mpr visible
  have test : s.testOffer bank row = .appended := by
    simp [State.testOffer, shown, fresh, alone, Config.sparingPlaces]
  simp only [State.spareRow, address, test, State.appendRequest, alone, List.nil_append]
  rfl

/-- A refusal with room in the log (R51). -/
theorem State.refuseRequest_of_room (s : State) (r : SpareRequest) (reason : RefusalReason) (room : s.log.records.length < 32) :
    s.refuseRequest r reason =
      { s with
        log :=
          { records := s.log.records ++
              [{ seq := s.log.nextSeq
                 body :=
                  { kind := .spareRefused, time := s.now, origin := .engine, injected := false
                    line := some (lineOf r.row r.bank 0), phys := none, slot := (s.remap.find r.bank r.row).map (·.1)
                    detail := reason.code } }]
            nextSeq := s.log.nextSeq + 1 }
        flags := s.flags ||| 0x0010
        counters := s.counters.set 15 (min (s.counters[15] + 1) 65535) } := by
  rw [State.refuseRequest, State.offerRow, State.offerRecord, if_pos (by exact room)]
  rfl

/-- The reason for which a request of a command is refused, where it is (R50). -/
def State.refusal (s : State) (bank row : Nat) : RefusalReason :=
  if s.remap.find bank row = none ∧ s.remap.freeSlot = none then .tableFull else .poolEmpty

theorem State.refusal_code (s : State) (bank row : Nat) :
    (s.refusal bank row).code = if s.remap.find bank row = none ∧ s.remap.freeSlot = none then 1 else 2 := by
  unfold State.refusal
  split <;> rfl

section SpareRow

variable (s : State) {bank row : Nat} (inside : bank ≤ 15) (visible : row < 32768 - s.remap.s) (alone : s.srq = [])
  (idle : s.engine = none) (port : s.media.failed = false)

include inside visible alone idle port

/-- SPARE_ROW starts a new sparing at once (R48, R53). -/
theorem State.spareRow_starts {n k : Nat} (missed : s.remap.find bank row = none) (free : s.remap.freeSlot = some n)
    (lowest : (s.remap.pool bank).head? = some k) : ∃ t,
      t = State.started { s with srq := [] } { bank := bank, row := row, cause := .command } n k .original
        { bank := bank, row := row, dest := k, state := .migrating .original, origin := .migrated, generation := 0
          time := s.now } (if s.remap.table.length = 255 then 0x0040 else 0)
      ∧ s.spareRow bank row = t.complete .queued := by
  let r : SpareRequest := { bank := bank, row := row, cause := .command }
  have verdict : State.validate { s with srq := [r] } r = .start n none k :=
    State.validate_new port (fun policy => policy.1 rfl) missed free lowest
  have start := State.engineTake_start (by exact idle) rfl verdict
  rw [State.startMigration_new (by exact free)] at start
  refine ⟨_, rfl, ?_⟩
  rw [s.spareRow_alone inside visible alone fun x member _ => find_none_iff.mp missed x member]
  exact congrArg (State.complete · .queued) start

/-- SPARE_ROW is refused at once, with no slot FREE or the pool empty (R48, R51). -/
theorem State.spareRow_refused (still : ∀ x ∈ s.remap.table, x.2.isMigrating = false)
    (lacking : (s.remap.find bank row = none ∧ s.remap.freeSlot = none) ∨ s.remap.pool bank = []) :
    s.spareRow bank row =
      (s.refuseRequest { bank := bank, row := row, cause := .command } (s.refusal bank row)).complete .queued := by
  let r : SpareRequest := { bank := bank, row := row, cause := .command }
  have verdict : State.validate { s with srq := [r] } r = .refuse (s.refusal bank row) := by
    unfold State.refusal
    split
    · rename_i full
      exact State.validate_tableFull port (fun policy => policy.1 rfl) full.1 full.2
    · rename_i placed
      exact State.validate_poolEmpty port (fun policy => policy.1 rfl) (Decidable.not_and_iff_or_not.mp placed)
        (lacking.resolve_left placed)
  have taken : State.engineTake { s with srq := [r] } = s.refuseRequest r (s.refusal bank row) := by
    rw [State.engineTake_refuse (by exact idle) rfl verdict, State.engineTake_eq_self (.inr (.inl (by simp)))]
    exact congrArg (State.refuseRequest · r _) (by rw [← alone])
  rw [s.spareRow_alone inside visible alone fun x member migrating => by simp [still x member] at migrating]
  exact congrArg (State.complete · .queued) taken

end SpareRow

/-- Settles O21: the verdict on the head request decides; a refusal passes to the next request, a start claims slot and spare. -/
theorem spareRowStartsOrIsRefused : Obligations.SpareRowStartsOrIsRefused := by
  refine ⟨fun s p n k h inside visible alone idle port missed free lowest room => ?_,
    fun s p h inside visible alone idle port still room lacking => ?_, fun s => State.engineTake_eq_self,
    fun s r rest idle queued port => ⟨fun policy => ?_, fun allowed missed full => ?_, fun allowed placed empty => ?_,
      fun n k allowed missed free lowest => ?_, fun n e k allowed found _ lowest => ?_⟩⟩
  · obtain ⟨t, started, taken⟩ :=
      State.spareRow_starts (s.busy codeSpareRow p) inside visible alone idle port missed free lowest
    obtain ⟨rest, -, -, slot, slots, spare, -⟩ := State.started_spec started
    have told : (s.busy codeSpareRow p).log.records.length < Config.logPlaces := room
    rw [State.offerRecord, if_pos told] at rest
    rw [execSpareRow_of_takes h, taken]
    generalize t.remap = remap at rest slot slots spare
    subst rest
    refine ⟨_, rfl, ?_, slot, slots, spare, rfl, rfl⟩
    rw [alone]
    rfl
  · rw [execSpareRow_of_takes h, State.spareRow_refused (s.busy codeSpareRow p) inside visible alone idle port still lacking,
      State.refuseRequest_of_room (s.busy codeSpareRow p) _ _ room]
    refine ⟨_, rfl, rfl, rfl, ?_, _, rfl, rfl, rfl, rfl, State.refusal_code s (paramByte p 0) (paramHalf p 1)⟩
    exact Vector.getElem_set_self _
  · exact State.engineTake_refuse idle queued (State.validate_policy port policy)
  · exact State.engineTake_refuse idle queued (State.validate_tableFull port allowed missed full)
  · exact State.engineTake_refuse idle queued (State.validate_poolEmpty port allowed placed empty)
  · have start := State.engineTake_start idle queued (State.validate_new port allowed missed free lowest)
    rw [State.startMigration_new (by exact free)] at start
    have full : (s.remap.find r.bank r.row = none ∧ s.remap.table.length = 255) ↔ s.remap.table.length = 255 :=
      and_iff_right missed
    simp only [full]
    exact State.started_spec start
  · have start := State.engineTake_start idle queued (State.validate_respare port allowed found lowest)
    rw [State.startMigration_respare] at start
    have kept : ¬(s.remap.find r.bank r.row = none ∧ s.remap.table.length = 255) := fun full => by
      rw [found] at full
      exact nomatch full.1
    simp only [if_neg kept]
    exact State.started_spec start

end Sys2Proof.Machine
end

section
/-! THEOREMS. The Sparing Request Queue over every step of the part (R46). -/

namespace Sys2Proof.Machine

/-! ### The Sparing Request Queue (R46) -/

/-- The law reads the queue and the table alone. -/
theorem State.QueueOk.congr {s t : State} (law : s.QueueOk) (table : t.remap.table = s.remap.table) (queue : t.srq = s.srq) :
    t.QueueOk := by
  obtain ⟨few, unique, apart⟩ := law
  constructor
  all_goals simpa only [table, queue]

theorem State.queueOk_iff_sparing (s : State) : s.QueueOk ↔ s.sparing.state.QueueOk :=
  ⟨fun law => law.congr rfl rfl, fun law => law.congr rfl rfl⟩

section Queue

variable {r r' : Remap} {q q' : List SpareRequest} {g g' : Option EngineCtx}

/-- Requests leave the queue, and every MIGRATING entry has a key that was MIGRATING before. -/
theorem State.QueueOk.shrink (law : (Sparing.state (r, q, g)).QueueOk) (left : q'.Sublist q)
    (keys : ∀ x ∈ r'.table, x.2.isMigrating = true →
      ∃ y ∈ r.table, y.2.isMigrating = true ∧ y.2.bank = x.2.bank ∧ y.2.row = x.2.row) :
    (Sparing.state (r', q', g')).QueueOk where
  few := left.length_le.trans law.few
  rows_unique := law.rows_unique.sublist (left.map _)
  not_migrating y hy x hx migrating := by
    obtain ⟨z, hz, migrating', bank, row⟩ := keys x hx migrating
    rw [← bank, ← row]
    exact law.not_migrating y (left.subset hy) z hz migrating'

/-- An entry that is not MIGRATING, or has the key of one that was, is put into a slot. -/
theorem State.QueueOk.put (law : (Sparing.state (r, q, g)).QueueOk) {n : Nat} {e : RemapEntry}
    (table : r'.table = Machine.putEntry n e r.table)
    (key : e.isMigrating = true → ∃ y ∈ r.table, y.2.isMigrating = true ∧ y.2.bank = e.bank ∧ y.2.row = e.row) :
    (Sparing.state (r', q, g')).QueueOk := by
  refine law.shrink (.refl q) fun x hx migrating => ?_
  rcases mem_of_mem_putEntry (table ▸ hx) with rfl | hx
  · exact key migrating
  · exact ⟨x, hx, migrating, rfl, rfl⟩

/-- An ACTIVE entry is put into a slot. -/
theorem State.QueueOk.put_active (law : (Sparing.state (r, q, g)).QueueOk) {n : Nat} {e : RemapEntry}
    (table : r'.table = Machine.putEntry n e r.table) (active : e.state = .active) : (Sparing.state (r', q, g')).QueueOk :=
  law.put table fun migrating => absurd migrating (Bool.eq_false_iff.mp (RemapEntry.isMigrating_eq_false.mpr active))

/-- The head request leaves the queue, and its row becomes MIGRATING (R28, R53). -/
theorem State.QueueOk.start {x : SpareRequest} (law : (Sparing.state (r, x :: q, g)).QueueOk) {n : Nat} {e : RemapEntry}
    (table : r'.table = Machine.putEntry n e r.table) (bank : e.bank = x.bank) (row : e.row = x.row) :
    (Sparing.state (r', q, g')).QueueOk := by
  obtain ⟨few, unique, apart⟩ := law
  obtain ⟨fresh, unique⟩ := List.nodup_cons.mp unique
  refine ⟨(Nat.le_succ _).trans few, unique, fun y hy z hz migrating => ?_⟩
  rcases mem_of_mem_putEntry (table ▸ hz) with rfl | hz
  · rw [bank, row]
    rintro ⟨same_bank, same_row⟩
    exact fresh (List.mem_map.mpr ⟨y, hy, by rw [← same_bank, ← same_row]⟩)
  · exact apart y (List.mem_cons_of_mem _ hy) z hz migrating

/-- A request whose row is neither queued nor MIGRATING joins a queue with room (R47). -/
theorem State.QueueOk.append {x : SpareRequest} (law : (Sparing.state (r, q, g)).QueueOk) (room : q.length < 8)
    (fresh : ∀ y ∈ q, ¬(y.bank = x.bank ∧ y.row = x.row))
    (still : ∀ y ∈ r.table, y.2.isMigrating = true → ¬(y.2.bank = x.bank ∧ y.2.row = x.row)) :
    (Sparing.state (r, q ++ [x], g)).QueueOk := by
  refine ⟨by simpa [Sparing.state] using room, ?_, fun y hy => ?_⟩
  · rw [show (Sparing.state (r, q ++ [x], g)).srq = q ++ [x] from rfl, List.map_append, List.nodup_append']
    refine ⟨law.rows_unique, List.nodup_singleton _, fun key old new => ?_⟩
    obtain ⟨y, hy, rfl⟩ := List.mem_map.mp old
    simp only [List.map_cons, List.map_nil, List.mem_singleton, Prod.mk.injEq] at new
    exact fresh y hy new
  · rcases List.mem_append.mp hy with hy | hy
    · exact law.not_migrating y hy
    · rw [List.mem_singleton.mp hy]
      exact still

end Queue

/-- Each change keeps the laws of the queue. -/
theorem SparingStep.keeps_queue {x y : Sparing} (h : SparingStep x y) (law : x.state.QueueOk) : y.state.QueueOk := by
  have same {r : Remap} : ∀ x ∈ r.table, x.2.isMigrating = true →
      ∃ y ∈ r.table, y.2.isMigrating = true ∧ y.2.bank = x.2.bank ∧ y.2.row = x.2.row :=
    fun x hx migrating => ⟨x, hx, migrating, rfl, rfl⟩
  cases h
  case append room fresh still => exact law.append room fresh still
  case refuse => exact law.shrink (List.sublist_cons_self _ _) same
  case start bank row _ _ _ _ _ => exact law.start rfl bank row
  case respare found _ _ _ _ =>
    obtain ⟨-, bank, row⟩ := find_spec found
    exact law.start rfl bank row
  case restart found _ _ _ _ => exact law.put rfl fun migrating => ⟨_, mem_of_entryAt found, migrating, rfl, rfl⟩
  case commitNew | commitMoved | revertMoved => exact law.put_active rfl rfl
  case install active => exact law.put_active rfl active
  case revertNew | drop => exact law.shrink (.refl _) fun x hx => same x (List.mem_of_mem_filter hx)
  case copy | drift | markDead | lowWater => exact law.congr rfl rfl
  case rebuild => exact law.shrink List.filter_sublist same
  case clear => exact law.shrink (List.nil_sublist _) same
  case reset => exact ⟨Nat.zero_le _, .nil, nofun⟩

/-- Settles O58: every command changes the queue and the table by a chain of changes, and each keeps the laws of the queue. -/
theorem stepKeepsTheSparingQueueLaws : Obligations.StepKeepsTheSparingQueueLaws := by
  refine step_keeps (fun _ _ law => law.congr rfl rfl) (fun _ _ law => law.congr rfl rfl) fun _ s t law h => ?_
  exact (State.queueOk_iff_sparing t).mpr
    (chain_keeps (P := fun x : Sparing => x.state.QueueOk) (fun _ _ change => change.keeps_queue) (exec_sparing h)
      ((State.queueOk_iff_sparing s).mp law))

end Sys2Proof.Machine
end

section
/-! THEOREMS. SPARE_ROW and the offers of a sparing (R47 to R50, R73). -/

namespace Sys2Proof.Machine

/-- Completing a command whose code stands in COMMAND finishes it (R175). -/
theorem State.complete_eq_finished {s : State} {code : Byte} (command : s.mgmt.command = code) (r : ResultCode) :
    s.complete r = s.finished code r := by
  subst command
  rfl

/-! ### The test of an offer (R47) -/

section Offer

variable {s : State} {bank row : Nat}

/-- A row is a duplicate when it is MIGRATING or queued (R47). -/
theorem State.isDuplicate_iff : s.isDuplicate bank row = true ↔
    (∃ x ∈ s.remap.table, x.2.isMigrating = true ∧ x.2.bank = bank ∧ x.2.row = row)
      ∨ ∃ r ∈ s.srq, r.bank = bank ∧ r.row = row := by
  simp only [State.isDuplicate, Bool.or_eq_true, List.any_eq_true, Bool.and_eq_true, beq_iff_eq, and_assoc]

theorem State.testOffer_dropped (hidden : ¬row < 32768 - s.remap.s) : s.testOffer bank row = .dropped :=
  if_pos (Nat.not_lt.mp hidden)

theorem State.testOffer_duplicate (visible : row < 32768 - s.remap.s) (known : s.isDuplicate bank row = true) :
    s.testOffer bank row = .duplicate := by
  have shown : ¬visibleRows s.remap.s ≤ row := Nat.not_le.mpr visible
  rw [State.testOffer, if_neg shown, if_pos known]

theorem State.testOffer_lost (visible : row < 32768 - s.remap.s) (fresh : ¬s.isDuplicate bank row = true)
    (full : 8 ≤ s.srq.length) : s.testOffer bank row = .lost := by
  have shown : ¬visibleRows s.remap.s ≤ row := Nat.not_le.mpr visible
  rw [State.testOffer, if_neg shown, if_neg fresh]
  exact if_pos full

theorem State.testOffer_appended (visible : row < 32768 - s.remap.s) (fresh : ¬s.isDuplicate bank row = true)
    (room : s.srq.length < 8) : s.testOffer bank row = .appended := by
  have shown : ¬visibleRows s.remap.s ≤ row := Nat.not_le.mpr visible
  rw [State.testOffer, if_neg shown, if_neg fresh]
  exact if_neg (Nat.not_le.mpr room)

/-! ### SPARE_ROW (R48) -/

theorem State.spareRow_badParam (outside : ¬(bank ≤ 15 ∧ row < 32768 - s.remap.s)) : s.spareRow bank row = s.complete .badParam := by
  rw [← bankOk_iff, ← rowOk_iff, ← Bool.and_eq_true] at outside
  exact if_pos (Bool.eq_false_iff.mpr outside)

/-- SPARE_ROW on an address in range is answered by the test of its offer. -/
theorem State.spareRow_of_valid (valid : bank ≤ 15 ∧ row < 32768 - s.remap.s) : s.spareRow bank row =
    match s.testOffer bank row with
    | .dropped => s.complete .badParam
    | .duplicate => s.complete .duplicate
    | .lost => s.complete .full
    | .appended => (s.appendRequest { bank := bank, row := row, cause := .command }).complete .queued := by
  rw [← bankOk_iff, ← rowOk_iff, ← Bool.and_eq_true, ← Bool.not_eq_false] at valid
  exact if_neg valid

theorem State.spareRow_duplicate (valid : bank ≤ 15 ∧ row < 32768 - s.remap.s) (known : s.isDuplicate bank row = true) :
    s.spareRow bank row = s.complete .duplicate := by
  rw [State.spareRow_of_valid valid, State.testOffer_duplicate valid.2 known]

theorem State.spareRow_full (valid : bank ≤ 15 ∧ row < 32768 - s.remap.s) (fresh : ¬s.isDuplicate bank row = true)
    (full : 8 ≤ s.srq.length) : s.spareRow bank row = s.complete .full := by
  rw [State.spareRow_of_valid valid, State.testOffer_lost valid.2 fresh full]

theorem State.spareRow_queued (valid : bank ≤ 15 ∧ row < 32768 - s.remap.s) (fresh : ¬s.isDuplicate bank row = true)
    (room : s.srq.length < 8) : s.spareRow bank row =
      (State.engineTake { s with srq := s.srq ++ [{ bank := bank, row := row, cause := .command }] }).complete .queued := by
  rw [State.spareRow_of_valid valid, State.testOffer_appended valid.2 fresh room]
  rfl

end Offer

/-- Settles O20: the test of the offer decides the answer, and an appended request is the engine's to take. -/
theorem spareRowAnswersTheOffer : Obligations.SpareRowAnswersTheOffer := by
  refine ⟨fun s p h => ?_, fun s p h inside visible room still apart => ?_, fun s bank row cause => ?_⟩
  · intro bank row valid known
    let t := s.busy codeSpareRow p
    have duplicate : known ↔ t.isDuplicate bank row = true := State.isDuplicate_iff.symm
    rw [execSpareRow_of_takes h]
    exact ⟨fun outside => congrArg _ (State.spareRow_badParam (s := t) outside),
      fun inside found => congrArg _ (State.spareRow_duplicate (s := t) inside (duplicate.mp found)),
      fun inside fresh full => congrArg _ (State.spareRow_full (s := t) inside (mt duplicate.mpr fresh) full)⟩
  · let r : SpareRequest := { bank := paramByte p 0, row := paramHalf p 1, cause := .command }
    let t : State := { s.busy codeSpareRow p with srq := s.srq ++ [r] }
    have fresh : ¬(s.busy codeSpareRow p).isDuplicate r.bank r.row = true := by
      rw [State.isDuplicate_iff]
      rintro (⟨x, member, migrating, key⟩ | ⟨y, member, key⟩)
      · exact still x member migrating key
      · exact apart y member key
    have queued : exec .spareRow s = .next (t.engineTake.finished codeSpareRow .queued) := by
      have command : t.engineTake.mgmt.command = codeSpareRow := by simp [t]
      rw [execSpareRow_of_takes h, ← State.complete_eq_finished command]
      exact congrArg _ (State.spareRow_queued (s := s.busy codeSpareRow p) ⟨inside, visible⟩ fresh room)
    refine ⟨queued, fun waits => queued.trans ?_⟩
    have kept : t.engineTake = t := State.engineTake_eq_self (waits.imp_right .inr)
    rw [kept]
    rfl
  · intro visible known
    have duplicate : known ↔ s.isDuplicate bank row = true := State.isDuplicate_iff.symm
    refine ⟨fun none => ?_, fun shown fresh full => ?_, fun shown fresh room => ?_⟩
    · by_cases shown : visible
      · rw [State.offerSparing, State.testOffer_duplicate shown (duplicate.mp (none.resolve_left (not_not_intro shown)))]
      · rw [State.offerSparing, State.testOffer_dropped shown]
    · rw [State.offerSparing, State.testOffer_lost shown (mt duplicate.mpr fresh) full, ← SpareCause.code_eq]
      rfl
    · rw [State.offerSparing, State.testOffer_appended shown (mt duplicate.mpr fresh) room]
      rfl

end Sys2Proof.Machine
end

section
/-! THEOREMS. An abort of the migration in progress, and ABORT_MIGRATION (R67 to R69, R73). -/

namespace Sys2Proof.Machine

/-! ### Orphans and HELD entries (R59, R68) -/

/-- A copy in flight becomes an orphan (R68). -/
theorem State.orphanCopy_slot_of_copy (s : State) {w : Work} (work : (s.slot background).work = some w) (owner : w.owner = .copy) :
    s.orphanCopy.slot background = { s.slot background with work := some { w with stage := .orphan } } := by
  simp only [State.orphanCopy_slot, work, owner, and_self, if_true]

/-- Other work in the background slot stays (R68). -/
theorem State.orphanCopy_slot_of_other (s : State) (other : ∀ w, (s.slot background).work = some w → w.owner ≠ .copy) :
    s.orphanCopy.slot background = s.slot background := by
  rw [State.orphanCopy_slot]
  cases work : (s.slot background).work with
  | none => rfl
  | some w => exact if_neg fun copy => other w work copy.2

/-- The releasing of every HELD entry (R59). -/
theorem State.releaseHeld_all (s : State) : (s.releaseHeld fun _ => true).ctl =
    { s.ctl with irq := s.ctl.irq.map fun x => if x.state = .held then { x with state := .waiting } else x } := by
  simp only [State.releaseHeld, and_true]

/-! ### The abort (R67, R73) -/

theorem AbortReason.code_eq (y : AbortReason) : y.code = reasonByte y := by
  cases y <;> rfl

theorem AbortReason.origin_eq (y : AbortReason) :
    y.origin = if y = .command ∨ y = .warmReset then Origin.command else Origin.engine := by
  cases y <;> rfl

section Abort

variable {s : State} {c : EngineCtx} {e : RemapEntry} (y : AbortReason) (engine : s.engine = some c)
  (entry : s.remap.entryAt c.entrySlot = some e)

include engine entry

/-- What an abort leaves of the part, beside the claim in the table and the pools and the orphan in its slot (R67). -/
theorem State.abort_eq : s.abort y = { s with
    remap := (s.abort y).remap, engine := none, media := { s.media with slots := (s.abort y).media.slots }
    ctl := { s.ctl with irq := s.ctl.irq.map fun x => if x.state = .held then { x with state := .waiting } else x }
    log := (s.offerRecord (s.abortRecord c e y)).log, counters := (s.offerRecord (s.abortRecord c e y)).counters
    flags := (s.offerRecord (s.abortRecord c e y)).flags } := by
  obtain ⟨log, counters, flags⟩ := State.abort_reports y engine entry
  have ctl := (State.abort_ctl y engine entry).trans s.releaseHeld_all
  have port := (State.Steady.abort s y).port
  refine State.same ?_ rfl ?_ ?_ (s.abort_engine y) ?_ ?_ ?_ port ctl log counters flags ?_ ?_ ?_ ?_ <;> simp

theorem State.abort_slot (i : SlotNo) : (s.abort y).slot i = s.orphanCopy.slot i :=
  State.slot_congr (State.abort_media y engine entry) i

end Abort

/-! ### ABORT_MIGRATION (R69) -/

section AbortMigration

variable {s : State} {p : Params}

theorem execAbortMigration_of_takes (h : s.takes codeAbortMigration p) :
    exec .abortMigration s = .next (s.busy codeAbortMigration p).abortMigration :=
  congrArg _ (runCommand_of_takes _ h)

theorem State.abortMigration_idle (idle : s.engine = none) : s.abortMigration = s.complete .wrongState := by
  rw [State.abortMigration, idle]

theorem State.abortMigration_busy (busy : s.engine ≠ none) :
    s.abortMigration = ((s.abort .command).engineTake).complete .ok := by
  obtain ⟨c, engine⟩ := Option.ne_none_iff_exists'.mp busy
  rw [State.abortMigration, engine]

end AbortMigration

/-- Settles O22: the abort's own changes, and the command as that abort with the reason COMMAND. -/
theorem abortMigrationReverts : Obligations.AbortMigrationReverts := by
  refine ⟨fun s p h => ?_, fun s c e y engine entry => ?_⟩
  · let t := s.busy codeAbortMigration p
    have aborted (busy : s.engine ≠ none) : exec .abortMigration s =
        .next (((t.abort .command).engineTake).finished codeAbortMigration .ok) := by
      have command : (t.abort .command).engineTake.mgmt.command = codeAbortMigration := by simp [t]
      rw [execAbortMigration_of_takes h, ← State.complete_eq_finished command]
      exact congrArg _ (State.abortMigration_busy (s := t) busy)
    refine ⟨fun idle => ?_, aborted, fun c e engine entry empty => ?_⟩
    · rw [execAbortMigration_of_takes h]
      exact congrArg _ (State.abortMigration_idle (s := t) idle)
    · have none_left : (t.abort .command).srq = [] := by simpa [t] using empty
      have shape := State.abort_eq .command (s := t) engine entry
      have slot := State.abort_slot .command (s := t) engine entry
      have entries := State.abort_entryAt .command (s := t) engine entry
      have spares := State.abort_spareState .command (s := t) engine entry
      rw [State.engineTake_eq_self (.inr (.inl none_left))] at aborted
      refine ⟨_, aborted (engine ▸ nofun), ?_, fun new => ?_, fun d moved => ?_, fun n other => ?_, ?_, fun b k other => ?_,
        congrArg (·.ctl.irq) shape, fun w work owner => ?_, fun i upstream => ?_⟩
      · generalize t.abort .command = a at shape ⊢
        rw [shape]
        rfl
      · exact (entries _).trans (by rw [if_pos rfl, new])
      · exact (entries _).trans (by rw [if_pos rfl, moved]; rfl)
      · exact (entries n).trans (if_neg other)
      · exact (spares _ _).trans (if_pos ⟨rfl, rfl⟩)
      · exact (spares b k).trans (if_neg other)
      · exact congrArg MediaSlot.work ((slot background).trans (State.orphanCopy_slot_of_copy t work owner))
      · exact (State.Steady.abort t .command).upstream i upstream
  · intro told t
    have shape := State.abort_eq y engine entry
    have slot := State.abort_slot y engine entry
    have entries := State.abort_entryAt y engine entry
    have spares := State.abort_spareState y engine entry
    obtain ⟨reservation, mark⟩ := State.abort_remap_rest y engine entry
    have record : s.offerRecord (s.abortRecord c e y) = told := by
      rw [State.abortRecord, AbortReason.code_eq, AbortReason.origin_eq]
      rfl
    rw [record] at shape
    exact ⟨shape, reservation, mark, (entries _).trans (if_pos rfl), fun n other => (entries n).trans (if_neg other),
      (spares _ _).trans (if_pos ⟨rfl, rfl⟩), fun b k other => (spares b k).trans (if_neg other),
      fun w work owner => (slot background).trans (s.orphanCopy_slot_of_copy work owner),
      fun other => (slot background).trans (s.orphanCopy_slot_of_other other),
      (State.Steady.abort s y).upstream⟩

end Sys2Proof.Machine
end

section
/-! THEOREMS. Accepted completions of writes, and the copy write that advances or commits a migration (R28, R56, R59, R62, R130). -/

namespace Sys2Proof.Machine

/-! ### Accepted completions (R130, R134) -/

section Accepted

variable {s : State} {i : SlotNo} {w : Work} {leg : Bool}

theorem exec_writeCompletion_of_accepted (work : (s.slot i).work = some w) (phase : w.phase = .write)
    (outstanding : (if leg then w.leg1 else w.leg0) = true) :
    exec (.writeCompletion i (s.slot i).epoch leg) s = .next (s.acceptWrite i w leg) := by
  show execWriteCompletion i (s.slot i).epoch leg s = _
  simp only [execWriteCompletion, work, phase, outstanding, and_self, if_true]

/-- The work of a write with a leg marked complete (R130). -/
def Work.marked (w : Work) (leg : Bool) : Work := if leg then { w with leg1 := false } else { w with leg0 := false }

@[simp] theorem Work.marked_stage (w : Work) (leg : Bool) : (w.marked leg).stage = w.stage := by
  cases leg <;> rfl

@[simp] theorem Work.marked_owner (w : Work) (leg : Bool) : (w.marked leg).owner = w.owner := by
  cases leg <;> rfl

theorem Work.marked_outstanding (w : Work) (leg : Bool) :
    ((w.marked leg).leg0 || (w.marked leg).leg1) = if leg then w.leg0 else w.leg1 := by
  cases leg
  · exact Bool.false_or _
  · exact Bool.or_false _

theorem State.acceptWrite_eq (s : State) (i : SlotNo) (w : Work) (leg : Bool) : s.acceptWrite i w leg =
    if (if leg then w.leg0 else w.leg1) = true then s.clearTimeouts.setWork i (w.marked leg)
    else s.clearTimeouts.writeEnded i (w.marked leg) := by
  rw [← Work.marked_outstanding]
  rfl

end Accepted

/-! ### The commit (R28, R62, R73) -/

/-- The record of a commit (R73). -/
def State.commitRecord (s : State) (c : EngineCtx) (e : RemapEntry) : Offer :=
  { kind := .spareDone, time := s.now, origin := .engine, injected := false, line := some (lineOf e.row e.bank 0)
    phys := some { bank := e.bank, row := 32768 - s.remap.s + c.dest, column := none }, slot := some c.entrySlot
    detail := BitVec.ofNat 8 c.poisoned }

/-- The entry of a committed migration (R28). -/
def RemapEntry.committed (e : RemapEntry) (dest : Nat) (time : Millis) : RemapEntry :=
  { e with state := .active, dest := dest, origin := .migrated, generation := min (e.generation + 1) 255, time := time }

section Commit

variable {s : State} {c : EngineCtx} {e : RemapEntry} (engine : s.engine = some c) (entry : s.remap.entryAt c.entrySlot = some e)

include engine entry

/-- The table and the pools after a commit: a source spare retires (R28). -/
theorem State.commit_remap : s.commit.remap =
    let table := Machine.putEntry c.entrySlot (e.committed c.dest s.now) s.remap.table
    match c.source with
    | .original => { s.remap with table := table }
    | .spare k => Remap.setSpare { s.remap with table := table } e.bank k .dead := by
  simp only [State.commit, State.engineEntry_eq engine entry]
  cases c.source <;> simp [RemapEntry.committed]

/-- What a commit leaves of the part, beside the claim in the table and the pools (R62). -/
theorem State.commit_eq : s.commit = { s with
    remap := s.commit.remap, engine := none, log := (s.offerRecord (s.commitRecord c e)).log
    counters := ((s.offerRecord (s.commitRecord c e)).count .sparesDone).counters
    flags := (s.offerRecord (s.commitRecord c e)).flags ||| 0x0008 } := by
  have claimed : s.commit =
      { ((State.offerRecord { s with remap := s.commit.remap } (s.commitRecord c e)).setFlag .spareDone).count .sparesDone with
        engine := none } := by
    rw [State.commit_remap engine entry]
    simp only [State.commit, State.engineEntry_eq engine entry]
    cases c.source <;> rfl
  obtain ⟨log, counters, flags⟩ := State.offerRecord_congr (a := { s with remap := s.commit.remap }) (b := s) rfl rfl rfl
    (s.commitRecord c e)
  rw [State.count_counters, ← log, ← counters, ← flags]
  generalize s.commit.remap = remap at claimed
  rw [claimed]
  refine State.same ?_ ?_ ?_ ?_ rfl ?_ ?_ ?_ ?_ ?_ rfl rfl rfl ?_ ?_ ?_ ?_ <;> simp

theorem State.commit_entryAt (n : Nat) : s.commit.remap.entryAt n =
    if n = c.entrySlot then some (e.committed c.dest s.now) else s.remap.entryAt n := by
  rw [State.commit_remap engine entry]
  cases c.source <;> simp

theorem State.commit_spareState (b k : Nat) : s.commit.remap.spareState b k =
    if b = e.bank ∧ c.source = .spare k then .dead else s.remap.spareState b k := by
  rw [State.commit_remap engine entry]
  cases c.source <;> simp [eq_comm (a := k)]

theorem State.commit_rest : s.commit.remap.s = s.remap.s ∧ s.commit.remap.lowWater = s.remap.lowWater := by
  rw [State.commit_remap engine entry]
  cases c.source <;> exact ⟨rfl, rfl⟩

end Commit

/-! ### The completion of a copy write (R56, R59) -/

/-- The state after a copy write of a line has completed: its slot FREE, consecutive timeouts 0, the HELD entries of the line
released (R56, R59, R138). -/
def State.copyDone (s : State) (line : Nat) : State :=
  State.freed
    { s with
      media := { s.media with timeouts := 0 }
      ctl := { s.ctl with irq := s.ctl.irq.map fun x =>
        if x.state = .held ∧ x.line = line then { x with state := .waiting } else x } } background

/-- The engine waits for the slot of the next line (R56). -/
def EngineCtx.advanced (c : EngineCtx) : EngineCtx := { c with state := .waitSlot, cursor := c.cursor + 1 }

/-- The state after the copy write at the cursor has completed, before a commit (R56). -/
def State.copyAdvanced (s : State) (c : EngineCtx) (e : RemapEntry) : State :=
  { s.copyDone (lineOf e.row e.bank c.cursor) with engine := some c.advanced }

theorem State.copyWritten_eq {s : State} {c : EngineCtx} {e : RemapEntry} (engine : s.engine = some c)
    (entry : s.remap.entryAt c.entrySlot = some e) (writing : c.state = .writing) : s.clearTimeouts.copyWritten =
      if c.cursor = 127 then (s.copyAdvanced c e).commit.engineTake else s.copyAdvanced c e := by
  have found : (s.clearTimeouts.freeSlot background).engineEntry = some (c, e) := State.engineEntry_eq engine entry
  have last : c.cursor + 1 = Config.linesPerRow ↔ c.cursor = 127 := Nat.succ_inj
  simp only [State.copyWritten, found, writing, if_true, last]
  simp only [State.releaseHeld, beq_iff_eq]
  rfl

/-- The completion of a copy write in flight is the engine's (R56, R130). -/
theorem exec_writeCompletion_of_copy {s : State} {w : Work} (work : (s.slot background).work = some w) (owner : w.owner = .copy)
    (stage : w.stage ≠ .orphan) (phase : w.phase = .write) (leg0 : w.leg0 = true) (leg1 : w.leg1 = false) :
    exec (.writeCompletion background (s.slot background).epoch false) s = .next s.clearTimeouts.copyWritten := by
  rw [exec_writeCompletion_of_accepted work phase (by simpa using leg0), State.acceptWrite_eq, if_neg (by simp [leg1])]
  simp only [State.writeEnded, Work.marked_stage, Work.marked_owner, stage, owner, if_false]

section CopyCommitted

variable {s : State} {c : EngineCtx} {e : RemapEntry} (entry : s.remap.entryAt c.entrySlot = some e)

include entry

/-- What the copy write of line 127 leaves: the advanced context committed (R56, R62). -/
theorem State.copyCommitted_eq : (s.copyAdvanced c e).commit = { s.copyDone (lineOf e.row e.bank c.cursor) with
    remap := (s.copyAdvanced c e).commit.remap, engine := none, log := (s.offerRecord (s.commitRecord c e)).log
    counters := ((s.offerRecord (s.commitRecord c e)).count .sparesDone).counters
    flags := (s.offerRecord (s.commitRecord c e)).flags ||| 0x0008 } := by
  obtain ⟨log, counters, flags⟩ := State.offerRecord_congr (a := s.copyAdvanced c e) (b := s) rfl rfl rfl (s.commitRecord c e)
  rw [State.count_counters, ← log, ← counters, ← flags]
  exact State.commit_eq (s := s.copyAdvanced c e) (c := c.advanced) rfl entry

theorem State.copyCommitted_entryAt (n : Nat) : (s.copyAdvanced c e).commit.remap.entryAt n =
    if n = c.entrySlot then some (e.committed c.dest s.now) else s.remap.entryAt n :=
  State.commit_entryAt (s := s.copyAdvanced c e) (c := c.advanced) rfl entry n

theorem State.copyCommitted_spareState (b k : Nat) : (s.copyAdvanced c e).commit.remap.spareState b k =
    if b = e.bank ∧ c.source = .spare k then .dead else s.remap.spareState b k :=
  State.commit_spareState (s := s.copyAdvanced c e) (c := c.advanced) rfl entry b k

theorem State.copyCommitted_rest : (s.copyAdvanced c e).commit.remap.s = s.remap.s
    ∧ (s.copyAdvanced c e).commit.remap.lowWater = s.remap.lowWater :=
  State.commit_rest (s := s.copyAdvanced c e) (c := c.advanced) rfl entry

end CopyCommitted

/-- Settles O24: below line 127 the context advances; at line 127 the advanced context commits. -/
theorem lastCopyWriteCommits : Obligations.LastCopyWriteCommits := by
  refine ⟨fun s c e w engine entry writing last empty room _ work owner stage phase leg0 leg1 => ?_,
    fun s c e w engine entry writing work owner stage phase leg0 leg1 => ?_⟩
  · have alone : (s.copyAdvanced c e).commit.srq = [] := by rw [State.copyCommitted_eq entry]; exact empty
    have written : exec (.writeCompletion background (s.slot background).epoch false) s = .next (s.copyAdvanced c e).commit := by
      rw [exec_writeCompletion_of_copy work owner (stage ▸ nofun) phase leg0 leg1, State.copyWritten_eq engine entry writing,
        if_pos last]
      exact congrArg _ (State.engineTake_eq_self (.inr (.inl alone)))
    have entries := State.copyCommitted_entryAt entry
    have spares := State.copyCommitted_spareState entry
    have shape := State.copyCommitted_eq entry
    have slot : (s.copyAdvanced c e).commit.slot background = { epoch := (s.slot background).epoch, work := none } := by
      have media : (s.copyAdvanced c e).commit.media = (s.clearTimeouts.freeSlot background).media := by rw [shape]; rfl
      rw [State.slot_congr media, State.freeSlot_slot, if_pos rfl]
      rfl
    rw [State.count_counters, State.offerRecord_log, State.offerRecord_counters, State.offerRecord_flags, if_pos room,
      if_pos room, if_pos room] at shape
    refine ⟨_, written, congrArg (·.engine) shape, alone, (entries _).trans (if_pos rfl), fun n other => (entries n).trans (if_neg other),
      fun k source => (spares _ k).trans (if_pos ⟨rfl, source⟩), congrArg (·.work) slot, congrArg (·.epoch) slot, ?_,
      congrArg (·.flags) shape, ?_, s.commitRecord c e, congrArg (·.log.records) shape, rfl, rfl, rfl⟩
    · rw [shape]
      rfl
    · rw [shape]
      exact Vector.getElem_set_self _
  · intro line written
    rw [exec_writeCompletion_of_copy work owner stage phase leg0 leg1, State.copyWritten_eq engine entry writing]
    refine ⟨fun lower => ?_, fun last => ?_⟩
    · rw [if_neg lower]
      rfl
    · intro told
      have entries := State.copyCommitted_entryAt entry
      rw [if_pos last]
      exact ⟨(s.copyAdvanced c e).commit, rfl, State.copyCommitted_eq entry, (State.copyCommitted_rest entry).1,
        (State.copyCommitted_rest entry).2, (entries _).trans (if_pos rfl), fun n other => (entries n).trans (if_neg other),
        State.copyCommitted_spareState entry⟩

end Sys2Proof.Machine
end

section
/-! THEOREMS. Destination failures and restarts (R63, R64, R73), and the dispatch of an UNCORRECTABLE outcome (R66, R79 to R83). -/

namespace Sys2Proof.Machine

/-- A record offered with flags added leaves the log and the counters that it leaves without them, and the flags added (R162). -/
theorem State.offerRecord_added {a b : State} {added : BitVec 16} (log : a.log = b.log) (counters : a.counters = b.counters)
    (flags : a.flags = b.flags ||| added) (o : Offer) :
    (a.offerRecord o).log = (b.offerRecord o).log ∧ (a.offerRecord o).counters = (b.offerRecord o).counters
      ∧ (a.offerRecord o).flags = (b.offerRecord o).flags ||| added := by
  have same := State.offerRecord_congr (b := { b with flags := b.flags ||| added }) log counters flags o
  rwa [State.offerRecord_flagged b b.remap b.engine added o] at same

/-- A record counts LOG_LOST at most (R162). -/
theorem State.offerRecord_counter (s : State) (o : Offer) {c : Counter} (other : Counter.logLost.index ≠ c.index) :
    (s.offerRecord o).counter c = s.counter c := by
  simp only [State.counter, State.offerRecord_counters]
  split
  · rfl
  · exact Vector.getElem_set_ne _ _ (Fin.val_ne_of_ne other)

theorem State.count_counter (s : State) (c : Counter) : (s.count c).counter c = min (s.counter c + 1) 65535 :=
  Vector.getElem_set_self _

/-! ### The restart (R28, R64, R73) -/

/-- The record of a restart (R73). -/
def State.restartRecord (s : State) (c : EngineCtx) (e : RemapEntry) : Offer :=
  { kind := .migrationRestart, time := s.now, origin := .engine, injected := false, line := some (lineOf e.row e.bank 0)
    phys := some { bank := e.bank, row := 32768 - s.remap.s + c.dest, column := none }, slot := some c.entrySlot
    detail := BitVec.ofNat 8 (c.restarts + 1) }

/-- The context of a migration restarted onto a spare (R64). -/
def EngineCtx.restarted (c : EngineCtx) (k : Nat) : EngineCtx :=
  { c with state := .waitSlot, dest := k, cursor := 0, restarts := c.restarts + 1, poisoned := 0 }

section Restart

variable (s : State) (c : EngineCtx) (e : RemapEntry) (k : Nat)

/-- The table and the pools after a restart: the failed destination retires, the spare is taken (R28). -/
theorem State.restart_remap : (s.restart c e k).remap =
    (s.remap.setSpare e.bank c.dest .dead).claim c.entrySlot { e with dest := k } e.bank k .assigned := by
  simp [State.restart, Remap.claim]
  rfl

/-- The restart but for its record and its count (R64). -/
def State.restartClaimed (s : State) (c : EngineCtx) (e : RemapEntry) (k : Nat) : State :=
  State.releaseHeld
    { ((s.orphanCopy.retireSpare e.bank c.dest).assignSpare e.bank k).putEntry c.entrySlot { e with dest := k } with
      engine := some (c.restarted k) } fun _ => true

theorem State.restart_eq_record :
    s.restart c e k = ((s.restartClaimed c e k).offerRecord (s.restartRecord c e)).count .migrationRestarts := by
  have record : s.restartRecord c e =
      { kind := .migrationRestart, time := (s.restartClaimed c e k).now, origin := .engine, injected := false
        line := some (lineOf e.row e.bank 0), phys := some ((s.restartClaimed c e k).spareAddr e.bank c.dest)
        slot := some c.entrySlot, detail := BitVec.ofNat 8 (c.restarts + 1) } := by
    simp [State.restartRecord, State.restartClaimed, State.now, State.spareAddr, spareRowOf]
  rw [record]
  rfl

/-- The flag that the taking of the spare sets (R33). -/
def State.restartLow (s : State) (c : EngineCtx) (e : RemapEntry) (k : Nat) : BitVec 16 :=
  if ((s.restart c e k).remap.pool e.bank).length < s.remap.lowWater then 0x0020 else 0

theorem State.restart_reports :
    (s.restart c e k).log = (s.offerRecord (s.restartRecord c e)).log
      ∧ (s.restart c e k).counters = ((s.offerRecord (s.restartRecord c e)).count .migrationRestarts).counters
      ∧ (s.restart c e k).flags = (s.offerRecord (s.restartRecord c e)).flags ||| s.restartLow c e k := by
  have flagged : (s.restartClaimed c e k).flags = s.flags ||| s.restartLow c e k := by
    rw [State.restartLow, State.restart_remap, Remap.claim, pool_setSpare_table]
    simp [State.restartClaimed, State.assignSpare_eq, -State.assignSpare_flags]
  obtain ⟨log, counters, flags⟩ := State.offerRecord_added (a := s.restartClaimed c e k) (b := s) (by simp [State.restartClaimed])
    (by simp [State.restartClaimed]) flagged (s.restartRecord c e)
  rw [State.count_counters, ← counters, ← log, ← flags, State.restart_eq_record]
  simp only [State.count_frame, State.count_counters, and_self]

/-- What a restart leaves of the part, beside the claim in the table and the pools and the orphan in its slot (R64). -/
theorem State.restart_eq : s.restart c e k = { s with
    remap := (s.restart c e k).remap, media := { s.media with slots := (s.restart c e k).media.slots }
    engine := some (c.restarted k)
    ctl := { s.ctl with irq := s.ctl.irq.map fun x => if x.state = .held then { x with state := .waiting } else x }
    log := (s.offerRecord (s.restartRecord c e)).log
    counters := ((s.offerRecord (s.restartRecord c e)).count .migrationRestarts).counters
    flags := (s.offerRecord (s.restartRecord c e)).flags ||| s.restartLow c e k } := by
  obtain ⟨log, counters, flags⟩ := s.restart_reports c e k
  have ctl : (s.restart c e k).ctl = (s.releaseHeld fun _ => true).ctl := by
    simp [State.restart, State.releaseHeld]
  have engine : (s.restart c e k).engine = some (c.restarted k) := by simp [State.restart, EngineCtx.restarted]
  refine State.same ?_ rfl ?_ ?_ engine ?_ ?_ ?_ (State.Steady.restart s c e k).port (ctl.trans s.releaseHeld_all) log counters
    flags ?_ ?_ ?_ ?_ <;> simp

theorem State.restart_entryAt (n : Nat) : (s.restart c e k).remap.entryAt n =
    if n = c.entrySlot then some { e with dest := k } else s.remap.entryAt n := by
  rw [State.restart_remap, entryAt_claim, entryAt_setSpare]

theorem State.restart_spareState (b i : Nat) : (s.restart c e k).remap.spareState b i =
    if b = e.bank ∧ i = k then .assigned else if b = e.bank ∧ i = c.dest then .dead else s.remap.spareState b i := by
  rw [State.restart_remap, spareState_claim, spareState_setSpare]

theorem State.restart_slot (i : SlotNo) : (s.restart c e k).slot i = s.orphanCopy.slot i :=
  State.slot_congr (by simp [State.restart]) i

end Restart

/-! ### What a destination failure decides (R63) -/

section DestinationFailure

variable {s : State} {c : EngineCtx} {e : RemapEntry} (engine : s.engine = some c) (entry : s.remap.entryAt c.entrySlot = some e)

include engine entry

theorem State.destinationFailure_limit (limit : c.restarts = 3) :
    s.destinationFailure = (s.abort .restartLimit).engineTake := by
  simp only [State.destinationFailure, State.engineEntry_eq engine entry]
  exact if_pos limit

theorem State.destinationFailure_empty (more : c.restarts ≠ 3) (empty : s.remap.pool e.bank = []) :
    s.destinationFailure = (s.abort .poolEmpty).engineTake := by
  simp only [State.destinationFailure, State.engineEntry_eq engine entry, empty, List.head?_nil]
  exact if_neg more

theorem State.destinationFailure_restart {k : Nat} (more : c.restarts ≠ 3) (lowest : (s.remap.pool e.bank).head? = some k) :
    s.destinationFailure = s.restart c e k := by
  simp only [State.destinationFailure, State.engineEntry_eq engine entry, lowest]
  exact if_neg more

end DestinationFailure

/-- An entry that is released is not HELD (R59). -/
theorem released_not_held (queue : List IrqEntry) :
    ∀ x ∈ queue.map (fun x => if x.state = .held then { x with state := IrqState.waiting } else x), x.state ≠ .held := by
  simp only [List.mem_map]
  rintro _ ⟨x, -, rfl⟩
  split
  · nofun
  · assumption

/-! ### The dispatch of an outcome (R66, R79 to R83; LOG 18) -/

theorem ReadFacts.injected_eq (f : ReadFacts) : f.injected = decide (f.delivered ≠ f.real) := by
  rw [ReadFacts.injected, Bool.eq_iff_iff]
  simp

/-- The kind of the record of an UNCORRECTABLE outcome (R83). -/
theorem ueKind_eq (o : Origin) : ueKind o = match o with
    | .patrol => .uePatrol
    | .copy => .ueCopy
    | _ => .ueUpstream := by
  cases o <;> rfl

/-- An UNCORRECTABLE outcome counted, recorded and flagged, before its offer (R80, R82, R83). -/
def State.ueSeen (s : State) (f : ReadFacts) : State :=
  ((s.count .ueTotal).offerRead f (ueKind f.origin) f.detail).setFlag .ueSeen

theorem State.policy_congr {a b : State} (h : a.regions = b.regions) (row : Nat) : a.policy row = b.policy row := by
  rw [State.policy, State.policy, h]

section Uncorrectable

variable (s : State) {f : ReadFacts}

theorem State.ueSeen_remap (f : ReadFacts) : (s.ueSeen f).remap = s.remap := by simp [State.ueSeen]

theorem State.ueSeen_policy (f : ReadFacts) (row : Nat) : (s.ueSeen f).policy row = s.policy row :=
  State.policy_congr (by simp [State.ueSeen]) row

/-- The offer with cause UE where the region has UE_SPARE (R82). -/
def State.ueOffered (s : State) (f : ReadFacts) : State :=
  if (s.policy (rowOf f.line)).ueSpare then (s.ueSeen f).offerSparing (bankOf f.line) (rowOf f.line) .ue else s.ueSeen f

theorem State.dispatch_uncorrectable (delivered : f.delivered = .uncorrectable) : s.dispatch f = (s.ueSeen f).ueOffer f := by
  rw [State.dispatch, delivered]
  rfl

theorem State.ueOffer_copy (origin : f.origin = .copy) : s.ueOffer f = s := by
  rw [State.ueOffer, if_pos origin]

theorem State.ueOffer_plain (own : f.origin ≠ .copy) (plain : ¬(f.origin = .upstream ∧ f.held = true)) :
    (s.ueSeen f).ueOffer f = s.ueOffered f := by
  rw [State.ueOffer, if_neg own, if_neg plain, State.ueSeen_policy]
  rfl

theorem State.ueOffer_held (origin : f.origin = .upstream) (held : f.held = true) :
    s.ueOffer f = s.failedDestinationRead f := by
  rw [State.ueOffer, if_neg (origin ▸ nofun), if_pos ⟨origin, held⟩]

theorem State.failedDestinationRead_none (missed : s.remap.find (bankOf f.line) (rowOf f.line) = none) :
    s.failedDestinationRead f = s := by
  simp only [State.failedDestinationRead, missed]

theorem State.failedDestinationRead_some {n : Nat} {e : RemapEntry}
    (found : s.remap.find (bankOf f.line) (rowOf f.line) = some (n, e)) : s.failedDestinationRead f =
      if 32768 - s.remap.s + e.dest = f.addr.row then
        if e.isMigrating then s.destinationFailure
        else if (s.policy (rowOf f.line)).ueSpare then s.offerSparing (bankOf f.line) (rowOf f.line) .ue
        else s
      else s := by
  simp only [State.failedDestinationRead, found]
  rfl

end Uncorrectable

/-- What a destination failure leaves with no request queued (R63, R64, R67). -/
theorem State.destinationFailure_alone {s : State} {c : EngineCtx} {e : RemapEntry} (engine : s.engine = some c)
    (entry : s.remap.entryAt c.entrySlot = some e) (alone : s.srq = []) :
    (c.restarts = 3 → s.destinationFailure = s.abort .restartLimit)
      ∧ (c.restarts ≠ 3 → s.remap.pool e.bank = [] → s.destinationFailure = s.abort .poolEmpty)
      ∧ ∀ k, c.restarts ≠ 3 → (s.remap.pool e.bank).head? = some k → s.destinationFailure = s.restart c e k := by
  have taken (y : AbortReason) : (s.abort y).engineTake = s.abort y :=
    State.engineTake_eq_self (.inr (.inl (by simpa using alone)))
  exact ⟨fun limit => (State.destinationFailure_limit engine entry limit).trans (taken _),
    fun more empty => (State.destinationFailure_empty engine entry more empty).trans (taken _),
    fun k => State.destinationFailure_restart engine entry⟩

/-- Settles O25: the failure by its three cases, and the dispatch by the outcome, the origin and the row's entry. -/
theorem destinationFailureDecides : Obligations.DestinationFailureDecides := by
  refine ⟨fun s c e engine entry alone apart => ?_, fun s c e engine entry => ?_, fun s f => ?_⟩
  · intro t
    obtain ⟨limit, empty, restart⟩ := State.destinationFailure_alone engine entry alone
    have aborted (y : AbortReason) : ∀ x ∈ (s.abort y).ctl.irq, x.state ≠ .held := by
      rw [State.abort_eq y engine entry]
      exact released_not_held _
    refine ⟨fun h => ?_, fun h pool => ?_, fun k h lowest => ?_, ?_⟩
    · rw [show t = s.abort .restartLimit from limit h]
      exact ⟨s.abort_engine _, (State.abort_spareState _ engine entry _ _).trans (if_pos ⟨rfl, rfl⟩)⟩
    · rw [show t = s.abort .poolEmpty from empty h pool]
      exact ⟨s.abort_engine _, (State.abort_spareState _ engine entry _ _).trans (if_pos ⟨rfl, rfl⟩)⟩
    · have moved : c.dest ≠ k := fun same => apart (same ▸ List.mem_of_mem_head? lowest)
      have spares := s.restart_spareState c e k
      have shape := s.restart_eq c e k
      rw [show t = s.restart c e k from restart k h lowest]
      refine ⟨congrArg (·.engine) shape, (s.restart_entryAt c e k _).trans (if_pos rfl), ?_, (spares _ _).trans (if_pos ⟨rfl, rfl⟩), ?_⟩
      · rw [spares, if_neg fun same => moved same.2, if_pos ⟨rfl, rfl⟩]
      · have counted : (s.restart c e k).counter .migrationRestarts =
            ((s.offerRecord (s.restartRecord c e)).count .migrationRestarts).counter .migrationRestarts := by
          rw [shape]
          rfl
        rw [counted, State.count_counter, State.offerRecord_counter _ _ (by decide)]
    · by_cases h : c.restarts = 3
      · rw [show t = s.abort .restartLimit from limit h]
        exact aborted _
      · cases pool : s.remap.pool e.bank with
        | nil =>
          rw [show t = s.abort .poolEmpty from empty h pool]
          exact aborted _
        | cons k rest =>
          rw [show t = s.restart c e k from restart k h (by rw [pool]; rfl), s.restart_eq c e k]
          exact released_not_held _
  · refine ⟨State.destinationFailure_limit engine entry, State.destinationFailure_empty engine entry, fun k more lowest => ?_⟩
    intro told t
    have spares := s.restart_spareState c e k
    have slot := s.restart_slot c e k
    have entries := s.restart_entryAt c e k
    rw [show t = s.restart c e k from State.destinationFailure_restart engine entry more lowest]
    refine ⟨s.restart_eq c e k, ?_, ?_, (entries _).trans (if_pos rfl), fun n other => (entries n).trans (if_neg other),
      (spares _ _).trans (if_pos ⟨rfl, rfl⟩), fun moved => ?_, fun b i other => ?_,
      fun w work owner => (slot background).trans (s.orphanCopy_slot_of_copy work owner),
      fun other => (slot background).trans (s.orphanCopy_slot_of_other other), (State.Steady.restart s c e k).upstream⟩
    · rw [s.restart_remap]
      rfl
    · rw [s.restart_remap]
      rfl
    · rw [spares, if_neg fun same => moved same.2, if_pos ⟨rfl, rfl⟩]
    · rw [spares, if_neg fun same => other ⟨same.1, .inr same.2⟩, if_neg fun same => other ⟨same.1, .inl same.2⟩]
  · intro bank row told seen offered
    have seen_eq : s.ueSeen f = seen := by
      simp only [State.ueSeen, State.offerRead, ueKind_eq, ReadFacts.injected_eq]
      rfl
    have offered_eq : s.ueOffered f = offered := by
      rw [State.ueOffered, seen_eq]
    refine ⟨fun clean => ?_, fun poison => ?_, fun failed => ?_⟩
    · rw [State.dispatch, clean]
    · rw [State.dispatch, poison]
    · rw [s.dispatch_uncorrectable failed, ← seen_eq, ← offered_eq]
      refine ⟨State.ueOffer_copy _, fun origin => State.ueOffer_plain s ?_ ?_, fun origin held => ?_⟩
      · rintro copy
        simp [copy] at origin
      · rintro ⟨upstream, held⟩
        simp [upstream, held] at origin
      · rw [State.ueOffer_held _ origin held]
        refine ⟨fun missed => State.failedDestinationRead_none _ (s.ueSeen_remap f ▸ missed), fun n e found => ?_⟩
        have decided := State.failedDestinationRead_some (s.ueSeen f) (s.ueSeen_remap f ▸ found)
        rw [State.ueSeen_remap, State.ueSeen_policy] at decided
        rw [decided]
        refine ⟨fun other => if_neg other, fun same active => ?_, fun same migrating => ?_⟩
        · rw [if_pos same, if_neg (by simp [RemapEntry.isMigrating_eq_false.mpr active])]
          rfl
        · rw [if_pos same, if_pos]
          exact Bool.ne_false_iff.mp (mt RemapEntry.isMigrating_eq_false.mp migrating)

end Sys2Proof.Machine
end

section
/-! THEOREMS. The copy read: its issue, the copy write that follows it, the discarded orphan (R54, R55, R58, R68, R83). -/

namespace Sys2Proof.Machine

/-! ### Phases issued (R129, R134) -/

/-- A read phase: the slot given its work, the read placed on the port. -/
theorem State.issuePhase_read (s : State) (i : SlotNo) (w : Work) :
    s.issuePhase i w none = (s.given i w).placed [.read i (s.slot i).epoch w.target] := by
  have epoch : ((s.setWork i w).slot i).epoch = (s.slot i).epoch := by rw [State.setWork_slot, if_pos rfl]
  rw [State.issuePhase, epoch]
  rfl

/-- A write phase: the slot given its work, leg 0 placed on the port, and leg 1 of a dual write behind it. -/
theorem State.issuePhase_write (s : State) (i : SlotNo) (w : Work) (l : StoredLine) :
    s.issuePhase i w (some l) = (s.given i w).placed
      (.write i (s.slot i).epoch false w.target l :: match w.target2 with
        | none => []
        | some a => [.write i (s.slot i).epoch true a l]) := by
  have epoch : ((s.setWork i w).slot i).epoch = (s.slot i).epoch := by rw [State.setWork_slot, if_pos rfl]
  rw [State.issuePhase, epoch]
  cases w.target2 with
  | none => rfl
  | some a =>
    have twice (a b : MediaOp) : s.media.out ++ [a] ++ [b] = s.media.out ++ [a, b] := by simp
    exact congrArg (fun out => { s.given i w with media := { (s.given i w).media with out := out } }) (twice _ _)

theorem ReadOutcome.sound_eq (o : ReadOutcome) : o.sound = soundOutcome o := by
  cases o <;> rfl

/-! ### COPY_READ_ISSUE (R54, R55, R58) -/

section Issue

variable {s : State} {c : EngineCtx} {e : RemapEntry} (engine : s.engine = some c) (entry : s.remap.entryAt c.entrySlot = some e)

include engine entry

theorem State.copyReady_of_quiet (waits : c.state = .waitSlot)
    (quiet : ∀ i ∈ upstreamSlots, (s.slot i).onLine (lineOf e.row e.bank c.cursor) = false) : s.copyReady = true := by
  have cursor : s.cursorLine = some (lineOf e.row e.bank c.cursor) := by
    simp only [State.cursorLine, State.engineEntry_eq engine entry, Option.map_some]
  have free : s.upstreamBusy (lineOf e.row e.bank c.cursor) = false := by
    simpa [State.upstreamBusy] using quiet
  simp [State.copyReady, engine, cursor, waits, free]

theorem exec_copyReadIssue_of_ready (ready : s.copyReady = true) (free : (s.slot background).work = none)
    (port : s.media.failed = false) (settled : s.media.drain = none) :
    exec .copyReadIssue s = .next (s.issueCopyRead c e) := by
  show execCopyReadIssue s = _
  simp [execCopyReadIssue, State.engineEntry_eq engine entry, ready, free, State.mayIssue, port, settled]

end Issue

/-- The row that a copy reads from (R10, R55). -/
theorem sourceRow_eq (reservation row : Nat) (source : Source) : sourceRow reservation row source = match source with
    | .original => row
    | .spare k => 32768 - reservation + k := by
  cases source <;> rfl

/-- The work of the copy read at the cursor: a read of the source (R55). -/
def State.copyReadWork (s : State) (c : EngineCtx) (e : RemapEntry) : Work :=
  { stage := .issued, owner := .copy, line := lineOf e.row e.bank c.cursor, phase := .read
    target := { bank := e.bank, row := sourceRow s.remap.s e.row c.source, column := c.cursor }, target2 := none, leg0 := true
    leg1 := false, fallback := none, start := s.us }

/-- What the issue of a copy read leaves (R55, R58). -/
theorem State.issueCopyRead_eq (s : State) (c : EngineCtx) (e : RemapEntry) : s.issueCopyRead c e =
    { (s.given background (s.copyReadWork c e)).placed
        [.read background (s.slot background).epoch (s.copyReadWork c e).target] with
      engine := some { c with state := .reading }
      ctl := { s.ctl with irq := s.ctl.irq.map fun x =>
        if x.state = .waiting ∧ x.kind.writes = true ∧ x.line = lineOf e.row e.bank c.cursor then { x with state := .held }
        else x } } := by
  rw [State.issueCopyRead, State.issuePhase_read]
  rfl

theorem State.issueCopyRead_slot (s : State) (c : EngineCtx) (e : RemapEntry) (i : SlotNo) : (s.issueCopyRead c e).slot i =
    if i = background then { epoch := (s.slot background).epoch, work := some (s.copyReadWork c e) } else s.slot i := by
  rw [State.issueCopyRead_eq]
  exact s.setWork_slot background i (s.copyReadWork c e)

/-! ### The completion of a copy read (R55, R68, R83) -/

/-- An orphan's completion frees its slot and does nothing else (R68). -/
theorem State.acceptRead_orphan (s : State) (i : SlotNo) {w : Work} (line : StoredLine) (stage : w.stage = .orphan) :
    s.acceptRead i w line = s.clearTimeouts.freed i := by
  rw [State.acceptRead, if_pos stage]
  rfl

/-- The state after a copy read has been dispatched with the restart count (R83). -/
def State.copyDispatched (s : State) (w : Work) (line : StoredLine) : State := s.dispatched w line .copy false s.restartByte

section CopyRead

variable {s : State} {w : Work} {line : StoredLine} (stage : w.stage ≠ .orphan) (owner : w.owner = .copy)

include stage owner

theorem State.acceptRead_copy : s.acceptRead background w line =
    (s.clearTimeouts.countMatches .copy w.line).copyRead w (classify line).1 (s.outcomeOf .copy w line) (classify line).2 := by
  have origin : w.origin = .copy := by rw [Work.origin, owner]
  simp only [State.acceptRead, if_neg stage, owner, origin]
  rfl

/-- An engine that is still READING after the dispatch issues the copy write and enters WRITING (R55). -/
theorem State.acceptRead_copy_writes {c : EngineCtx} (engine : (s.copyDispatched w line).engine = some c)
    (reading : c.state = .reading) : s.acceptRead background w line =
      (State.given
        { s.copyDispatched w line with engine := some { c with
            state := .writing, poisoned := if soundOutcome (classify line).1 then c.poisoned else c.poisoned + 1 } }
        background
        { w with
          stage := .issuedSecond, phase := .write, target := { w.target with row := 32768 - s.remap.s + c.dest }
          target2 := none, leg0 := true, leg1 := false, start := s.us }).placed
        [.write background (s.slot background).epoch false { w.target with row := 32768 - s.remap.s + c.dest }
          (if soundOutcome (classify line).1 then sealLine (classify line).2 else poisonMarker)] := by
  have steady : s.clearTimeouts.Steady (s.copyDispatched w line) := State.Steady.dispatched s w line .copy false s.restartByte
  have us : s.us = (s.copyDispatched w line).us := by simp [State.copyDispatched, State.dispatched]
  have epoch : (s.slot background).epoch = ((s.copyDispatched w line).slot background).epoch := (steady.epochs background).symm
  have reservation : s.remap.s = (s.copyDispatched w line).remap.s := steady.reservation.symm
  rw [State.acceptRead_copy stage owner, State.copyRead, ← ReadOutcome.sound_eq, epoch, us, reservation]
  dsimp only
  split
  · rename_i idle
    exact nomatch idle.symm.trans engine
  · rename_i c' engine'
    obtain rfl := Option.some.inj (engine'.symm.trans engine)
    rw [if_pos reading, State.issuePhase_write]
    rfl

/-- An engine that is not READING after the dispatch leaves the slot FREE (R68). -/
theorem State.acceptRead_copy_stops (stopped : ∀ c, (s.copyDispatched w line).engine = some c → c.state ≠ .reading) :
    s.acceptRead background w line = (s.copyDispatched w line).freed background := by
  rw [State.acceptRead_copy stage owner, State.copyRead]
  dsimp only
  split
  · rfl
  · rename_i c engine
    exact if_neg (stopped c engine)

end CopyRead

/-- The dispatch of a copy read ends or restarts a migration by an exhaustion alone (R68). -/
theorem State.dispatched_copy_engine (s : State) (w : Work) (line : StoredLine) (detail : Byte)
    (other : s.outcomeOf .copy w line ≠ .corrected) : (s.dispatched w line .copy false detail).engine = s.engine := by
  unfold State.dispatched
  generalize s.outcomeOf .copy w line = delivered at other
  cases delivered with
  | clean => rfl
  | poison => rfl
  | corrected => exact absurd rfl other
  | uncorrectable =>
    rw [State.dispatch_uncorrectable _ rfl, State.ueOffer_copy _ rfl]
    simp [State.ueSeen]

/-- Settles O23: the issue by its conditions, the completion by what its dispatch leaves of the engine, the orphan by its stage. -/
theorem copyReadIssuesFromTheSource : Obligations.CopyReadIssuesFromTheSource := by
  refine ⟨fun s c e engine entry waits quiet free port settled => ?_, fun s w leg line work owner stage phase => ?_,
    fun s i w leg line work stage phase => ?_⟩
  · intro line source
    have target : (s.copyReadWork c e).target = source := by
      simp only [State.copyReadWork, sourceRow_eq]
      rfl
    have slots := s.issueCopyRead_slot c e
    refine ⟨s.issueCopyRead c e, ?_, ?_, ?_, fun i other => (slots i).trans (if_neg other), (slots background).trans ?_, ?_⟩
    · exact exec_copyReadIssue_of_ready engine entry (State.copyReady_of_quiet engine entry waits quiet) free port settled
    · rw [s.issueCopyRead_eq]
      rfl
    · rw [s.issueCopyRead_eq, target]
      rfl
    · rw [if_pos rfl, ← target]
      rfl
    · rw [s.issueCopyRead_eq]
  · intro real d next
    rw [execReadCompletion_accepted leg line work phase]
    exact ⟨fun c engine reading => congrArg _ (State.acceptRead_copy_writes stage owner engine reading),
      fun other => congrArg _ (State.acceptRead_copy_stops stage owner other), s.dispatched_copy_engine w line _⟩
  · rw [execReadCompletion_accepted leg line work phase, s.acceptRead_orphan i line stage]
    rfl

end Sys2Proof.Machine
end

section
/-! THEOREMS. Answers, upstream reads and their fallbacks (R65, R79, R83, R84, R141, R152 to R155), and the merge (R61, R86, R139). -/

namespace Sys2Proof.Machine

/-! ### Answers (R152 to R155) -/

section Gate

variable {s : State}

theorem State.closeIfEmpty_open (kept : s.ctl.gate ≠ .quiescing ∨ s.ctl.irq ≠ []) : s.closeIfEmpty = s :=
  if_neg (not_and_or.mpr kept)

theorem State.closeIfEmpty_closes (gate : s.ctl.gate = .quiescing) (empty : s.ctl.irq = []) :
    s.closeIfEmpty = { s with ctl := { s.ctl with gate := .closed }, flags := s.flags ||| 0x0200 } :=
  if_pos ⟨gate, empty⟩

end Gate

/-- Whether an entry is answered with MEDIA_FAILED once no older entry of its line is left: the port is FAILED and the entry is
not ISSUED (R154). -/
def State.failsNow (s : State) (e : IrqEntry) : Bool := s.media.failed && !e.state.isIssued

/-- The state after an answer, before a QUIESCING gate closes: the entry retired, those that it lets go answered (R153, R154). -/
def State.retired (s : State) (tag : Tag) (m : CtlMsg) : State :=
  let queue := s.ctl.irq.eraseP fun x => x.tag == tag
  let gone := answered s.failsNow queue
  { s with ctl := { s.ctl with
    irq := staying s.failsNow queue, p := s.ctl.p + 1 + gone.length
    out := s.ctl.out ++ m :: gone.map (·.failed .mediaFailed) } }

theorem State.retire_eq {s : State} {tag : Tag} (m : CtlMsg) (found : ∃ e ∈ s.ctl.irq, e.tag = tag) :
    s.retire tag m = (s.retired tag m).closeIfEmpty := by
  have known : s.ctl.irq.any (fun e => e.tag == tag) = true := by simpa using found
  rw [State.retire, if_pos known, State.answerFailed_eq]
  simp only [List.append_assoc, List.singleton_append]
  rfl

/-- With the port OK an answer retires its entry alone (R152, R153). -/
theorem State.retired_ok {s : State} (tag : Tag) (m : CtlMsg) (port : s.media.failed = false) : s.retired tag m =
    { s with ctl := { s.ctl with
      irq := s.ctl.irq.eraseP (fun x => x.tag == tag), p := s.ctl.p + 1, out := s.ctl.out ++ [m] } } := by
  obtain ⟨stay, none_gone⟩ := staying_none s.failsNow (s.ctl.irq.eraseP fun x => x.tag == tag) (by simp [State.failsNow, port])
  simp only [State.retired, stay, none_gone]
  rfl

/-- The end of an upstream slot's work: the slot FREE, the entry retired (R152). -/
theorem State.endWithAnswer_eq {s : State} (i : SlotNo) {tag : Tag} (m : CtlMsg) (found : ∃ e ∈ s.ctl.irq, e.tag = tag) :
    s.endWithAnswer i tag m = ((s.freed i).retired tag m).closeIfEmpty :=
  State.retire_eq (s := s.freed i) m found

/-- With the port OK and the gate OPEN the entry retires alone. -/
theorem State.endWithAnswer_ok {s : State} (i : SlotNo) {tag : Tag} (m : CtlMsg) (found : ∃ e ∈ s.ctl.irq, e.tag = tag)
    (port : s.media.failed = false) (gate : s.ctl.gate = .opened) : s.endWithAnswer i tag m =
      { s.freed i with ctl := { s.ctl with
        irq := s.ctl.irq.eraseP (fun x => x.tag == tag), p := s.ctl.p + 1, out := s.ctl.out ++ [m] } } := by
  have alone := State.retired_ok (s := s.freed i) tag m port
  have open_gate : ((s.freed i).retired tag m).ctl.gate ≠ .quiescing := by
    rw [alone]
    exact gate ▸ nofun
  rw [State.endWithAnswer_eq i m found, State.closeIfEmpty_open (.inl open_gate), alone]
  rfl

/-! ### The dispatch of an upstream read (R79, R83) -/

/-- The origin of an upstream slot's read (R79). -/
theorem Work.origin_of_upstream {w : Work} {tag : Tag} {attached : Bool} (owner : w.owner = .upstream tag attached) :
    w.origin = if w.phase = .fallbackRead then Origin.fallback else Origin.upstream := by
  rw [Work.origin, owner]

/-- The state after an upstream read has been dispatched with its request's tag (R83). -/
def State.upstreamDispatched (s : State) (w : Work) (line : StoredLine) (tag : Tag) : State :=
  s.dispatched w line (if w.phase = .fallbackRead then .fallback else .upstream) w.fallback.isSome (BitVec.ofNat 8 tag.toNat)

/-- The delivered outcome of an upstream read (R122). -/
def State.upstreamOutcome (s : State) (w : Work) (line : StoredLine) : ReadOutcome :=
  s.outcomeOf (if w.phase = .fallbackRead then .fallback else .upstream) w line

section Dispatched

variable (s : State) (w : Work) (line : StoredLine) (tag : Tag)

theorem State.upstreamDispatched_steady : s.clearTimeouts.Steady (s.upstreamDispatched w line tag) :=
  State.Steady.dispatched s w line _ _ _

theorem State.upstreamDispatched_failed : (s.upstreamDispatched w line tag).media.failed = s.media.failed := by
  rw [(s.upstreamDispatched_steady w line tag).port]
  rfl

theorem State.upstreamDispatched_epoch (i : SlotNo) : ((s.upstreamDispatched w line tag).slot i).epoch = (s.slot i).epoch :=
  (s.upstreamDispatched_steady w line tag).epochs i

theorem State.upstreamDispatched_us : (s.upstreamDispatched w line tag).us = s.us := by
  simp [State.upstreamDispatched, State.dispatched]

theorem State.upstreamDispatched_policy (row : Nat) : (s.upstreamDispatched w line tag).policy row = s.policy row :=
  State.policy_congr (by simp [State.upstreamDispatched, State.dispatched]) row

end Dispatched

section UpstreamRead

variable {s : State} {w : Work} {tag : Tag} (i : SlotNo) (line : StoredLine) (stage : w.stage ≠ .orphan)

include stage

/-- An accepted upstream read is dispatched, then handed to its owner (R79, R130). -/
theorem State.acceptRead_upstream {attached : Bool} (owner : w.owner = .upstream tag attached) : s.acceptRead i w line =
    match (if attached then (s.upstreamDispatched w line tag).entryOfTag tag else none) with
    | none => (s.upstreamDispatched w line tag).freed i
    | some e =>
      (s.upstreamDispatched w line tag).ownUpstreamRead i w e (classify line).1 (s.upstreamOutcome w line) (classify line).2 := by
  have origin := Work.origin_of_upstream owner
  have accepted : s.acceptRead i w line = (s.clearTimeouts.countMatches w.origin w.line).upstreamRead i w tag attached w.origin
      (classify line).1 (s.outcomeOf w.origin w line) (classify line).2 := by
    simp only [State.acceptRead, if_neg stage, owner]
    rfl
  rw [accepted, origin, State.upstreamRead, ← BitVec.ofNat_toNat]
  rfl

/-- The read of a request that a link reset has discarded frees its slot (R141; LOG 25). -/
theorem State.acceptRead_detached (owner : w.owner = .upstream tag false) :
    s.acceptRead i w line = (s.upstreamDispatched w line tag).freed i :=
  State.acceptRead_upstream i line stage owner

/-- The read of a request is handed to its entry, which the dispatch leaves but for its state (R59). -/
theorem State.acceptRead_attached {e : IrqEntry} (owner : w.owner = .upstream tag true)
    (own : s.ctl.irq.find? (fun x => x.tag == tag) = some e) : ∃ e', e'.tag = tag ∧ e'.kind = e.kind
      ∧ (s.upstreamDispatched w line tag).entryOfTag tag = some e'
      ∧ s.acceptRead i w line =
        (s.upstreamDispatched w line tag).ownUpstreamRead i w e' (classify line).1 (s.upstreamOutcome w line) (classify line).2 := by
  obtain ⟨e', found, same, kind, -⟩ := (s.upstreamDispatched_steady w line tag).entryOfTag own
  have named : e.tag = tag := by simpa using List.find?_some own
  have accepted := State.acceptRead_upstream (s := s) i line stage owner
  rw [if_pos rfl, found] at accepted
  exact ⟨e', same.trans named, kind, found, accepted⟩

end UpstreamRead

/-! ### The owner of an upstream read (R65, R84, R86) -/

/-- The answer to a LINE_READ (R84). -/
theorem readAnswer_eq (tag : Tag) (response : UeResponse) (delivered : ReadOutcome) (data : LineData) :
    readAnswer tag response delivered data = match delivered with
      | .clean => .readResponse tag .clean data
      | .corrected => .readResponse tag .corrected data
      | _ => if response = .poison then .readResponse tag .poison data else .readFail tag .uncorrectable := by
  cases delivered <;> cases response <;> rfl

section Own

variable {d : State} {i : SlotNo} {w : Work} {e : IrqEntry} {real delivered : ReadOutcome} {data : LineData}

/-- An UNCORRECTABLE read that holds a fallback target is followed by the fallback read (R65). -/
theorem State.ownUpstreamRead_fallback {target : PhysAddr} (failed : delivered = .uncorrectable) (held : w.fallback = some target)
    (port : d.media.failed = false) : d.ownUpstreamRead i w e real delivered data =
      (d.given i
        { w with
          stage := .issuedSecond, phase := .fallbackRead, target := target, target2 := none, leg0 := true, leg1 := false
          fallback := none, start := d.us }).placed [.read i (d.slot i).epoch target] := by
  simp only [State.ownUpstreamRead, if_pos failed, held, port, Bool.false_eq_true, if_false, State.issuePhase_read]

/-- While the port is FAILED it is answered with MEDIA_FAILED (R65). -/
theorem State.ownUpstreamRead_fallback_failed {target : PhysAddr} (failed : delivered = .uncorrectable)
    (held : w.fallback = some target) (port : d.media.failed = true) :
    d.ownUpstreamRead i w e real delivered data = d.endWithAnswer i e.tag (e.failed .mediaFailed) := by
  simp only [State.ownUpstreamRead, if_pos failed, held, port, if_true, IrqEntry.failed_eq]

variable (final : delivered ≠ .uncorrectable ∨ w.fallback = none)

include final

theorem fallback_of_final : (if delivered = .uncorrectable then w.fallback else none) = none := by
  split
  · exact final.resolve_left (not_not_intro ‹_›)
  · rfl

/-- The final outcome of a LINE_READ answers it (R84). -/
theorem State.ownUpstreamRead_read (kind : e.kind = .read) : d.ownUpstreamRead i w e real delivered data =
    d.endWithAnswer i e.tag (readAnswer e.tag (d.policy (rowOf w.line)).ueResponse delivered data) := by
  simp only [State.ownUpstreamRead, fallback_of_final final, kind]

variable {request : LineData} {mask : ByteMask} (kind : e.kind = .merge request mask)

include kind

/-- A merge of data that is not sound stops (R86). -/
theorem State.ownUpstreamRead_mergePoison (unsound : ¬(soundOutcome real = true ∧ soundOutcome delivered = true)) :
    d.ownUpstreamRead i w e real delivered data = d.endWithAnswer i e.tag (.writeResponse e.tag (some .mergePoison)) := by
  rw [← Bool.and_eq_true, ← ReadOutcome.sound_eq, ← ReadOutcome.sound_eq] at unsound
  simp only [State.ownUpstreamRead, fallback_of_final final, kind, if_neg unsound]

/-- A merge of sound data stops while the port is FAILED (R139). -/
theorem State.ownUpstreamRead_mergeFailed (sound : soundOutcome real = true ∧ soundOutcome delivered = true)
    (port : d.media.failed = true) :
    d.ownUpstreamRead i w e real delivered data = d.endWithAnswer i e.tag (.writeResponse e.tag (some .mediaFailed)) := by
  rw [← Bool.and_eq_true, ← ReadOutcome.sound_eq, ← ReadOutcome.sound_eq] at sound
  simp only [State.ownUpstreamRead, fallback_of_final final, kind, if_pos sound, if_pos port]

/-- A merge of sound data writes the merged line where translation sends it now (R61, R86). -/
theorem State.ownUpstreamRead_merge (sound : soundOutcome real = true ∧ soundOutcome delivered = true)
    (port : d.media.failed = false) : d.ownUpstreamRead i w e real delivered data =
      let second := (d.translateWrite w.line).2
      (d.given i
        { w with
          stage := .issuedSecond, phase := .write, target := (d.translateWrite w.line).1, target2 := second, leg0 := true
          leg1 := second.isSome, start := d.us }).placed
        (.write i (d.slot i).epoch false (d.translateWrite w.line).1 (sealLine (mergeData mask request data)) ::
          match second with
          | none => []
          | some a => [.write i (d.slot i).epoch true a (sealLine (mergeData mask request data))]) := by
  have written : d.ownUpstreamRead i w e real delivered data =
      d.issueWrite i { w with stage := .issuedSecond } (mergeData mask request data) := by
    rw [← Bool.and_eq_true, ← ReadOutcome.sound_eq, ← ReadOutcome.sound_eq] at sound
    simp only [State.ownUpstreamRead, fallback_of_final final, kind, if_pos sound, port, Bool.false_eq_true, if_false]
  exact written.trans (State.issuePhase_write _ _ _ _)

end Own

/-! ### Reads that no injection slot matches (R76, R120) -/

/-- A read that no slot matches fires none (R121). -/
theorem State.firedBy_of_uninjected {s : State} {origin : Origin} {line : Nat} (plain : s.uninjected origin line) :
    s.firedBy origin line = [] := by
  refine List.eq_nil_iff_forall_not_mem.mpr fun o fired => ?_
  obtain ⟨k, matched, -⟩ := (s.mem_firedBy origin line o).mp fired
  exact Bool.false_ne_true ((plain k).symm.trans matched)

/-- A read that no slot matches counts none (R121). -/
theorem State.countMatches_of_uninjected {s : State} {origin : Origin} {line : Nat} (plain : s.uninjected origin line) :
    s.countMatches origin line = s := by
  have kept : (s.countMatches origin line).inject = s.inject := by
    refine Vector.ext fun k hk => ?_
    exact (s.countMatches_slot origin line ⟨k, hk⟩).trans (if_neg (Bool.eq_false_iff.mp (plain ⟨k, hk⟩)))
  show { s with inject := (s.countMatches origin line).inject } = s
  rw [kept]

/-- A CLEAN line delivers its data as stored (R76). -/
theorem classify_clean_data {line : StoredLine} (clean : (classify line).1 = .clean) : (classify line).2 = line.data := by
  unfold classify classifyWith at clean ⊢
  by_cases written : line.check = Config.checkBytes line.data
  · rw [if_pos written]
  · rw [if_neg written] at clean
    repeat' split at clean
    all_goals cases clean

/-- The read of a line that is CLEAN and matches no injection slot dispatches nothing (R79, R120). -/
theorem State.upstreamDispatched_clean {s : State} {w : Work} {line : StoredLine} (tag : Tag) (phase : w.phase = .read)
    (clean : (classify line).1 = .clean) (plain : s.uninjected .upstream w.line) :
    s.upstreamOutcome w line = .clean ∧ s.upstreamDispatched w line tag = s.clearTimeouts := by
  have origin : (if w.phase = .fallbackRead then Origin.fallback else Origin.upstream) = .upstream := if_neg (phase ▸ nofun)
  have outcome : s.upstreamOutcome w line = .clean := by
    rw [State.upstreamOutcome, origin, State.outcomeOf, State.firedBy_of_uninjected plain, clean]
    rfl
  have counted : s.clearTimeouts.countMatches .upstream w.line = s.clearTimeouts :=
    State.countMatches_of_uninjected (s := s.clearTimeouts) plain
  refine ⟨outcome, ?_⟩
  rw [State.upstreamOutcome, origin] at outcome
  rw [State.upstreamDispatched, origin, State.dispatched, outcome]
  exact counted

/-- The entry that a search by tag finds holds the tag. -/
theorem found_by_tag {queue : List IrqEntry} {tag : Tag} {e : IrqEntry} (own : queue.find? (fun x => x.tag == tag) = some e) :
    e ∈ queue ∧ e.tag = tag :=
  ⟨List.mem_of_find?_eq_some own, by simpa using List.find?_some own⟩

/-- Settles O31: the read by its dispatch and its owner, the answer by what it retires; a CLEAN read that no slot matches
dispatches nothing. -/
theorem cleanReadIsAnswered : Obligations.CleanReadIsAnswered := by
  refine ⟨fun s i w tag e leg line work owner stage phase own read port gate clean plain => ?_,
    fun s i w tag leg line work stage phase => ?_, fun s i tag m found => ?_⟩
  · obtain ⟨outcome, undone⟩ := State.upstreamDispatched_clean tag phase clean plain
    obtain ⟨e', named, kind, -, accepted⟩ := State.acceptRead_attached i line stage owner own
    have final : s.upstreamOutcome w line ≠ .uncorrectable := by rw [outcome]; nofun
    rw [State.ownUpstreamRead_read (.inl final) (kind.trans read), outcome, undone, classify_clean_data clean, named] at accepted
    rw [execReadCompletion_accepted leg line work (phase ▸ nofun), accepted]
    exact congrArg _ (State.endWithAnswer_ok (s := s.clearTimeouts) i _ ⟨e, found_by_tag own⟩ port gate)
  · intro origin delivered data d
    rw [execReadCompletion_accepted leg line work phase]
    refine ⟨fun owner => congrArg _ (State.acceptRead_detached i line stage owner), fun e owner own => ?_⟩
    obtain ⟨e', named, kind, -, accepted⟩ := State.acceptRead_attached i line stage owner own
    have answer (cause : FailCause) : e'.failed cause = e.failed cause := by
      rw [IrqEntry.failed_eq, IrqEntry.failed_eq, kind, named, (found_by_tag own).2]
    have port := s.upstreamDispatched_failed w line tag
    rw [accepted]
    refine ⟨fun target failed held => ⟨fun ok => ?_, fun stopped => ?_⟩, fun final read => ?_⟩
    · have failed : s.upstreamOutcome w line = .uncorrectable := failed
      rw [State.ownUpstreamRead_fallback failed held (port.trans ok), State.upstreamDispatched_us, State.upstreamDispatched_epoch]
      rfl
    · have failed : s.upstreamOutcome w line = .uncorrectable := failed
      rw [State.ownUpstreamRead_fallback_failed failed held (port.trans stopped), answer, named]
      rfl
    · have final : s.upstreamOutcome w line ≠ .uncorrectable ∨ w.fallback = none := final
      rw [State.ownUpstreamRead_read final (kind.trans read), readAnswer_eq, State.upstreamDispatched_policy, named]
      rfl
  · intro waits queue kept gone t
    have asks : (s.freed i).failsNow = waits := by
      funext e
      simp only [State.failsNow, waits, IrqState.isIssued]
      cases e.state <;> rfl
    have ended : s.endWithAnswer i tag m = t.closeIfEmpty := by
      rw [State.endWithAnswer_eq i m found, State.retired, asks]
      rfl
    rw [ended]
    exact ⟨State.closeIfEmpty_open (s := t), State.closeIfEmpty_closes (s := t)⟩

/-! ### The legs of a write (R130, R134) -/

section WriteEnded

variable {s : State} {i : SlotNo} {w : Work}

theorem State.writeEnded_alone (alone : w.stage = .orphan ∨ ∃ tag, w.owner = .upstream tag false) :
    s.writeEnded i w = s.freed i := by
  by_cases orphan : w.stage = .orphan
  · exact if_pos orphan
  · obtain ⟨tag, owner⟩ := alone.resolve_left orphan
    simp only [State.writeEnded, if_neg orphan, owner]
    rfl

theorem State.writeEnded_upstream {tag : Tag} (stage : w.stage ≠ .orphan) (owner : w.owner = .upstream tag true) :
    s.writeEnded i w = s.endWithAnswer i tag (.writeResponse tag none) := by
  simp only [State.writeEnded, if_neg stage, owner, if_true]

end WriteEnded

/-- Settles O32: a leg by whether the other is outstanding, the last one by its owner; the merge by its outcome and the port. -/
theorem lastLegAnswersTheWrite : Obligations.LastLegAnswersTheWrite := by
  have legs (s : State) (i : SlotNo) (w : Work) (leg : Bool) (work : (s.slot i).work = some w) (phase : w.phase = .write)
      (outstanding : (if leg then w.leg1 else w.leg0) = true) :
      exec (.writeCompletion i (s.slot i).epoch leg) s = .next (if (if leg then w.leg0 else w.leg1) = true
        then s.clearTimeouts.given i (w.marked leg) else s.clearTimeouts.writeEnded i (w.marked leg)) :=
    (exec_writeCompletion_of_accepted work phase outstanding).trans (congrArg _ (s.acceptWrite_eq i w leg))
  refine ⟨fun s i w tag leg work owner stage phase outstanding => ?_, fun s i w leg work phase outstanding => ?_,
    fun s i w tag e request mask leg line work owner stage phase own kind => ?_⟩
  · rw [legs s i w leg work phase outstanding]
    refine ⟨fun other => ?_, fun last found port gate => ?_⟩
    · rw [if_pos other]
      rfl
    · rw [if_neg (Bool.eq_false_iff.mp last),
        State.writeEnded_upstream (by rwa [Work.marked_stage]) (by rwa [Work.marked_owner])]
      exact congrArg _ (State.endWithAnswer_ok (s := s.clearTimeouts) i _ found port gate)
  · intro cleared
    rw [legs s i w leg work phase outstanding]
    refine ⟨fun other => ?_, fun last => ⟨fun alone => ?_, fun tag stage owner => ?_⟩⟩
    · rw [if_pos other]
      rfl
    · rw [if_neg (Bool.eq_false_iff.mp last), State.writeEnded_alone (by rwa [Work.marked_stage, Work.marked_owner])]
      rfl
    · rw [if_neg (Bool.eq_false_iff.mp last),
        State.writeEnded_upstream (by rwa [Work.marked_stage]) (by rwa [Work.marked_owner])]
      rfl
  · intro origin delivered sound d target second final
    have final : s.upstreamOutcome w line ≠ .uncorrectable ∨ w.fallback = none := final
    obtain ⟨e', named, kind', -, accepted⟩ := State.acceptRead_attached i line stage owner own
    have port := s.upstreamDispatched_failed w line tag
    have merge := kind'.trans kind
    rw [execReadCompletion_accepted leg line work phase, accepted]
    refine ⟨fun unsound => ?_, fun good stopped => ?_, fun good ok => ?_⟩
    · rw [State.ownUpstreamRead_mergePoison final merge unsound, named]
      rfl
    · rw [State.ownUpstreamRead_mergeFailed final merge good (port.trans stopped), named]
      rfl
    · refine ⟨mergeData mask request (classify line).2, fun b => mergeData_bit mask request _ b.val b.isLt, ?_⟩
      rw [State.ownUpstreamRead_merge final merge good (port.trans ok), State.upstreamDispatched_us, State.upstreamDispatched_epoch]
      rfl

end Sys2Proof.Machine
end

section
/-! THEOREMS. A grant attempt: the entry that it chooses, the all-zero merges that it answers (R58, R85, R132, R150; LOG 26). -/

namespace Sys2Proof.Machine

/-! ### The choice (R150) -/

/-- An entry behind entries of the lines `seen` can be granted a slot (R150). -/
def State.Eligible (s : State) (seen : List Nat) (e : IrqEntry) : Prop :=
  e.state = .waiting ∧ e.kind.isZeroMerge = false ∧ e.line ∉ seen ∧ s.lineFree e = true

/-- The lines passed on the way through a queue, latest first. -/
def linesPassed (seen : List Nat) (older : List IrqEntry) : List Nat := (older.map IrqEntry.line).reverse ++ seen

theorem linesPassed_cons (seen : List Nat) (e : IrqEntry) (older : List IrqEntry) :
    linesPassed seen (e :: older) = linesPassed (e.line :: seen) older := by
  simp [linesPassed]

theorem mem_linesPassed {older : List IrqEntry} {line : Nat} : line ∉ linesPassed [] older ↔ ∀ x ∈ older, x.line ≠ line := by
  simp [linesPassed]

section Choice

variable (s : State)

theorem State.oldestEligible_cons_of_eligible {seen : List Nat} {e : IrqEntry} (queue : List IrqEntry) (fits : s.Eligible seen e) :
    s.oldestEligible seen (e :: queue) = some e := by
  obtain ⟨waiting, asks, fresh, free⟩ := fits
  exact if_pos ⟨waiting, by simp [asks], by simpa using fresh, free⟩

theorem State.oldestEligible_cons_of_not {seen : List Nat} {e : IrqEntry} (queue : List IrqEntry) (misfit : ¬s.Eligible seen e) :
    s.oldestEligible seen (e :: queue) = s.oldestEligible (e.line :: seen) queue := by
  refine if_neg fun ⟨waiting, asks, fresh, free⟩ => misfit ⟨waiting, by simpa using asks, by simpa using fresh, free⟩

/-- The entry chosen is eligible, and none before it is. -/
theorem State.oldestEligible_some {seen : List Nat} {queue : List IrqEntry} {e : IrqEntry}
    (chosen : s.oldestEligible seen queue = some e) : ∃ older younger, queue = older ++ e :: younger
      ∧ s.Eligible (linesPassed seen older) e
      ∧ ∀ before x after, older = before ++ x :: after → ¬s.Eligible (linesPassed seen before) x := by
  induction queue generalizing seen with
  | nil => cases chosen
  | cons y queue ih =>
    by_cases fits : s.Eligible seen y
    · rw [s.oldestEligible_cons_of_eligible queue fits] at chosen
      obtain rfl := Option.some.inj chosen
      exact ⟨[], queue, rfl, fits, fun before x after h => absurd h.symm (by simp)⟩
    · rw [s.oldestEligible_cons_of_not queue fits] at chosen
      obtain ⟨older, younger, rfl, eligible, first⟩ := ih chosen
      refine ⟨y :: older, younger, rfl, linesPassed_cons seen y older ▸ eligible, fun before x after h => ?_⟩
      rcases List.cons_eq_append_iff.mp h with ⟨rfl, h⟩ | ⟨before', rfl, h⟩
      · obtain ⟨rfl, -⟩ := List.cons.inj h
        exact fits
      · rw [linesPassed_cons]
        exact first before' x after (List.cons.inj h).2

/-- With none chosen no entry is eligible. -/
theorem State.oldestEligible_none {seen : List Nat} {queue : List IrqEntry} (none_chosen : s.oldestEligible seen queue = none) :
    ∀ before x after, queue = before ++ x :: after → ¬s.Eligible (linesPassed seen before) x := by
  induction queue generalizing seen with
  | nil => exact fun before x after h => absurd h.symm (by simp)
  | cons y queue ih =>
    have misfit : ¬s.Eligible seen y := fun fits => by
      rw [s.oldestEligible_cons_of_eligible queue fits] at none_chosen
      cases none_chosen
    rw [s.oldestEligible_cons_of_not queue misfit] at none_chosen
    intro before x after h
    rcases List.cons_eq_append_iff.mp h with ⟨rfl, h⟩ | ⟨before', rfl, h⟩
    · obtain ⟨rfl, -⟩ := List.cons.inj h
      exact misfit
    · rw [linesPassed_cons]
      exact ih none_chosen before' x after (List.cons.inj h).2

end Choice

/-! ### A free line (R58, R150) -/

theorem mem_upstreamSlots (i : SlotNo) : i ∈ upstreamSlots ↔ i ≠ background := by
  revert i
  decide

theorem MediaSlot.onLine_eq_false {m : MediaSlot} {line : Nat} : m.onLine line = false ↔ ∀ w, m.work = some w → w.line ≠ line := by
  unfold MediaSlot.onLine
  cases m.work <;> simp

theorem State.upstreamBusy_eq_false {s : State} {line : Nat} : s.upstreamBusy line = false ↔
    ∀ i : SlotNo, i ≠ background → ∀ w, (s.slot i).work = some w → w.line ≠ line := by
  rw [State.upstreamBusy, List.any_eq_false]
  refine forall_congr' fun i => ?_
  rw [mem_upstreamSlots, Bool.not_eq_true, MediaSlot.onLine_eq_false]

theorem State.backgroundBusy_eq_false {s : State} {line : Nat} {isRead : Bool} : s.backgroundBusy line isRead = false ↔
    ∀ w, (s.slot background).work = some w → w.line = line → isRead = true ∧ w.owner = .copy ∧ w.stage ≠ .orphan := by
  unfold State.backgroundBusy
  cases (s.slot background).work with
  | none => simp
  | some w => simp [and_assoc]

/-- A request that does not write is a read. -/
theorem RequestKind.writes_eq_false {k : RequestKind} : k.writes = false ↔ k = .read := by
  cases k <;> simp [RequestKind.writes]

theorem State.lineFree_iff (s : State) (e : IrqEntry) : s.lineFree e = true ↔
    (∀ i : SlotNo, i ≠ background → ∀ w, (s.slot i).work = some w → w.line ≠ e.line)
      ∧ ∀ w, (s.slot background).work = some w → w.line = e.line → e.kind = .read ∧ w.owner = .copy ∧ w.stage ≠ .orphan := by
  rw [State.lineFree, Bool.and_eq_true, Bool.not_eq_true', Bool.not_eq_true', State.upstreamBusy_eq_false,
    State.backgroundBusy_eq_false]
  simp only [Bool.not_eq_true', RequestKind.writes_eq_false]

/-! ### The all-zero merges (R85; LOG 26) -/

theorem State.queueMayIssue_iff (s : State) :
    s.queueMayIssue = true ↔ s.ctl.gate ≠ .closed ∧ s.media.failed = false ∧ s.media.drain = none := by
  simp [State.queueMayIssue, State.mayIssue]

/-- Whether an entry is an all-zero merge that a grant attempt answers once no older entry of its line is left (R85). -/
def State.mergesNow (s : State) (e : IrqEntry) : Bool := e.state == .waiting && s.lineFree e && e.kind.isZeroMerge

theorem State.answerZeroMerges_eq {s : State} (issues : s.queueMayIssue = true) : s.answerZeroMerges = State.closeIfEmpty
    { s with ctl := { s.ctl with
        irq := staying s.mergesNow s.ctl.irq, p := s.ctl.p + (answered s.mergesNow s.ctl.irq).length
        out := s.ctl.out ++ (answered s.mergesNow s.ctl.irq).map fun e => .writeResponse e.tag none } } := by
  have asks (e : IrqEntry) : (e.state = .waiting ∧ e.kind.isZeroMerge = true ∧ s.lineFree e = true) ↔ s.mergesNow e = true := by
    simp only [State.mergesNow, Bool.and_eq_true, beq_iff_eq]
    tauto
  rw [State.answerZeroMerges, if_pos issues, ← State.runPass_eq]
  simp only [asks]

/-- Settles O40: the choice by induction over the queue, a free line slot by slot, the merges by one pass over the queue. -/
theorem grantChoosesTheOldestEligible : Obligations.GrantChoosesTheOldestEligible := by
  refine ⟨fun s => ?_, State.lineFree_iff, fun s => ?_⟩
  · intro fits
    have eligible (older : List IrqEntry) (e : IrqEntry) : fits older e ↔ s.Eligible (linesPassed [] older) e := by
      rw [State.Eligible, mem_linesPassed]
    simp only [eligible]
    exact ⟨fun e => s.oldestEligible_some, s.oldestEligible_none⟩
  · intro asks kept gone t
    have same : s.mergesNow = asks := by
      funext e
      simp only [State.mergesNow, RequestKind.isZeroMerge, asks]
      cases e.kind <;> rfl
    refine ⟨fun stopped => if_neg ?_, fun gate port settled => ?_⟩
    · rw [State.queueMayIssue_iff]
      rintro ⟨gate, port, settled⟩
      rcases stopped with closed | failed | drains
      · exact gate closed
      · exact Bool.false_ne_true (port.symm.trans failed)
      · exact drains settled
    · have answers := State.answerZeroMerges_eq (s.queueMayIssue_iff.mpr ⟨gate, port, settled⟩)
      rw [same] at answers
      rw [answers]
      exact ⟨State.closeIfEmpty_open (s := t), State.closeIfEmpty_closes (s := t)⟩

end Sys2Proof.Machine
end

section
/-! THEOREMS. The expiry of a phase timer and the entry into FAILED (R70, R114, R115, R135 to R138, R154; LOG 2, LOG 3, LOG 17). -/

namespace Sys2Proof.Machine

/-! ### The timeout's own effects (R135, R137) -/

section TimedOut

variable (s : State) (i : SlotNo) (w : Work)

/-- The effects before the owner is told are those of `State.timedOut`. -/
theorem State.timeout_own :
    (State.offerTimeout
      { ((s.advanceTo (w.start + Config.mediaTimeoutUs)).setSlot i { epoch := (s.slot i).epoch + 1, work := none }).count
          .mediaTimeouts with
        media := { (s.advanceTo (w.start + Config.mediaTimeoutUs)).media with
          slots := s.media.slots.set i.toNat { epoch := (s.slot i).epoch + 1, work := none } i.isLt
          timeouts := min (s.media.timeouts + 1) Config.timeoutsToFail } } i w) = s.timedOut i w := by
  have target : w.target2.getD w.target = match w.target2 with
      | none => w.target
      | some second => second := by cases w.target2 <;> rfl
  rw [State.offerTimeout, target, ← BitVec.ofNat_toNat]
  rfl

theorem State.timeout_eq : s.timeout i w =
    let told := (s.timedOut i w).tellTimeout w
    State.afterTimeout (if told.media.timeouts = 4 ∧ told.media.failed = false then told.enterFailed i else told) w := by
  rw [← State.timeout_own]
  rfl

theorem State.timedOut_media : (s.timedOut i w).media =
    { s.media with
      slots := s.media.slots.set i.toNat { epoch := (s.slot i).epoch + 1, work := none } i.isLt
      timeouts := min (s.media.timeouts + 1) 4 } := by
  simp [State.timedOut]

theorem State.timedOut_slot : (s.timedOut i w).slot i = { epoch := (s.slot i).epoch + 1, work := none } := by
  rw [State.slot, State.timedOut_media]
  exact Vector.getElem_set_self _

theorem State.timedOut_ctl : (s.timedOut i w).ctl = s.ctl := by
  simp [State.timedOut]

theorem State.timedOut_us : (s.timedOut i w).us = max s.us (w.start + 50) := by
  simp [State.timedOut]

theorem State.timedOut_counter : (s.timedOut i w).counter .mediaTimeouts = min (s.counter .mediaTimeouts + 1) 65535 := by
  rw [State.timedOut, State.offerRecord_counter _ _ (by decide)]
  exact s.count_counter .mediaTimeouts

/-- The record of a timeout joins a log that is not full (R137, R162). -/
theorem State.timedOut_log (room : s.log.records.length < 32) :
    ∃ o, (s.timedOut i w).log.records = s.log.records ++ [{ seq := s.log.nextSeq, body := o }]
      ∧ o.kind = .mediaTimeout ∧ o.line = some w.line ∧ o.detail = BitVec.ofNat 8 i.toNat := by
  rw [State.timedOut, State.offerRecord_log]
  exact ⟨_, congrArg Log.records (if_pos room), rfl, rfl, rfl⟩

end TimedOut

/-! ### The entry into FAILED (R138) -/

section PortFailed

variable (s : State) (i : SlotNo)

/-- The port marked FAILED, with the record and the flag of it: the first steps of the entry into FAILED (R138). -/
def State.portFlagged : State :=
  (State.offerRecord { s with media := { s.media with failed := true } }
    { kind := .mediaFailed, time := s.now, origin := .engine, injected := false, line := none, phys := none, slot := none
      detail := BitVec.ofNat 8 i.toNat }).setFlag .mediaFailed

/-- The state after the migration in progress is aborted, before the patrol stops (R138). -/
def State.portAborted : State :=
  match s.engine with
  | none => s.portFlagged i
  | some _ => (s.portFlagged i).abort .mediaFailed

theorem State.portAborted_steady : (s.portFlagged i).Steady (s.portAborted i) := by
  unfold State.portAborted
  split
  · exact State.Steady.refl _
  · exact State.Steady.abort _ _

theorem State.portFlagged_media : (s.portFlagged i).media = { s.media with failed := true } := by
  simp [State.portFlagged]

theorem State.portFlagged_engine : (s.portFlagged i).engine = s.engine := by
  simp [State.portFlagged]

theorem State.portAborted_failed : (s.portAborted i).media.failed = true := by
  rw [(s.portAborted_steady i).port, State.portFlagged_media]

theorem State.enterFailed_steps : s.enterFailed i = (s.portAborted i).stopPatrol.answerFailed.closeIfEmpty := by
  have aborted : s.portAborted i =
      if (s.portFlagged i).engine.isSome then (s.portFlagged i).abort .mediaFailed else s.portFlagged i := by
    rw [s.portFlagged_engine i, State.portAborted]
    cases s.engine <;> rfl
  rw [aborted, State.portFlagged, BitVec.ofNat_toNat]
  rfl

/-- The last steps of the entry into FAILED: the patrol STOPPED, the entries that `asks` selects answered, and a QUIESCING gate closed
on an empty queue (R138, R154, R155). -/
def State.portHalted (t : State) (asks : IrqEntry → Bool) : State :=
  let kept := staying asks t.ctl.irq
  let gone := answered asks t.ctl.irq
  let closes := t.ctl.gate = .quiescing ∧ kept = []
  { t with
    patrol := { t.patrol with state := .stopped, due := false, cancel := false, timer := none }
    ctl := { t.ctl with
      irq := kept, p := t.ctl.p + gone.length, out := t.ctl.out ++ gone.map (·.failed .mediaFailed)
      gate := if closes then .closed else t.ctl.gate }
    flags := if closes then t.flags ||| 0x0200 else t.flags }

theorem State.portFailed_eq : s.portFailed i = (s.portAborted i).portHalted fun e => !e.state.isIssued := by
  have waits : (fun e : IrqEntry => !e.state.isIssued) = fun e => match e.state with
      | .issued _ => false
      | .waiting => true
      | .held => true := by
    funext e
    cases e.state <;> rfl
  rw [waits]
  rfl

theorem State.enterFailed_eq : s.enterFailed i = s.portFailed i := by
  have failed : (s.portAborted i).stopPatrol.media.failed = true := s.portAborted_failed i
  rw [State.enterFailed_steps, State.answerFailed_eq, State.portFailed_eq, failed]
  exact State.closeIfEmpty_stopped _ _ _ _

end PortFailed

/-! ### What an abort and the entry into FAILED leave (R67, R138) -/

section Leaves

variable (s : State) (i : SlotNo) (y : AbortReason)

/-- The log grows at its tail alone (R162). -/
theorem State.offerRecord_extends (o : Offer) : ∃ more, (s.offerRecord o).log.records = s.log.records ++ more := by
  rw [State.offerRecord_log]
  split
  · exact ⟨_, rfl⟩
  · exact ⟨[], (List.append_nil _).symm⟩

/-- What an abort reports: with no entry at work nothing, else its record (R67, R73). -/
theorem State.abort_told : ((s.abort y).log = s.log ∧ (s.abort y).counters = s.counters)
    ∨ ∃ o, (s.abort y).log = (s.offerRecord o).log ∧ (s.abort y).counters = (s.offerRecord o).counters := by
  cases found : s.engineEntry with
  | none => exact .inl (by rw [State.abort, found]; exact ⟨rfl, rfl⟩)
  | some x =>
    obtain ⟨engine, entry⟩ := engineEntry_some (c := x.1) (e := x.2) found
    obtain ⟨log, counters, -⟩ := State.abort_reports y engine entry
    exact .inr ⟨_, log, counters⟩

theorem State.abort_extends : ∃ more, (s.abort y).log.records = s.log.records ++ more := by
  rcases s.abort_told y with ⟨log, -⟩ | ⟨o, log, -⟩
  · exact ⟨[], by rw [log, List.append_nil]⟩
  · exact log ▸ s.offerRecord_extends o

theorem State.abort_counter {c : Counter} (other : Counter.logLost.index ≠ c.index) : (s.abort y).counter c = s.counter c := by
  rcases s.abort_told y with ⟨-, counters⟩ | ⟨o, -, counters⟩
  · rw [State.counter, counters, State.counter]
  · rw [← s.offerRecord_counter o other, State.counter, counters, State.counter]

/-- A FREE slot stays FREE over an abort (R68). -/
theorem State.abort_slot_free {j : SlotNo} (free : (s.slot j).work = none) : (s.abort y).slot j = s.slot j := by
  cases found : s.engineEntry with
  | none => rw [State.abort, found]; rfl
  | some x =>
    obtain ⟨engine, entry⟩ := engineEntry_some (c := x.1) (e := x.2) found
    rw [State.abort_slot y engine entry, State.orphanCopy_slot, free]

theorem State.portFlagged_slot (j : SlotNo) : (s.portFlagged i).slot j = s.slot j := by
  rw [State.slot, State.portFlagged_media, State.slot]

theorem State.portFailed_slot_free {j : SlotNo} (free : (s.slot j).work = none) : (s.portFailed i).slot j = s.slot j := by
  have aborted : (s.portAborted i).slot j = s.slot j := by
    have same := s.portFlagged_slot i j
    unfold State.portAborted
    split
    · exact same
    · rw [State.abort_slot_free _ _ (same ▸ free), same]
  rw [← aborted, State.portFailed_eq]
  rfl

theorem State.portFailed_media :
    (s.portFailed i).media.failed = true ∧ (s.portFailed i).media.timeouts = s.media.timeouts := by
  rw [State.portFailed_eq]
  refine ⟨s.portAborted_failed i, ?_⟩
  show (s.portAborted i).media.timeouts = _
  rw [(s.portAborted_steady i).port, State.portFlagged_media]

theorem State.portFailed_stopped : (s.portFailed i).patrol.state = .stopped := by
  rw [State.portFailed_eq]
  rfl

theorem State.portFailed_us : (s.portFailed i).us = s.us := by
  rw [← State.enterFailed_eq, (State.enterFailed_frame s i).1]

theorem State.portFailed_counter {c : Counter} (other : Counter.logLost.index ≠ c.index) :
    (s.portFailed i).counter c = s.counter c := by
  have flagged : (s.portFlagged i).counter c = s.counter c := State.offerRecord_counter _ _ other
  have aborted : (s.portAborted i).counter c = s.counter c := by
    unfold State.portAborted
    split
    · exact flagged
    · rw [State.abort_counter _ _ other, flagged]
  rw [← aborted, State.portFailed_eq]
  rfl

theorem State.portFailed_extends : ∃ more, (s.portFailed i).log.records = s.log.records ++ more := by
  obtain ⟨first, flagged⟩ : ∃ more, (s.portFlagged i).log.records = s.log.records ++ more := State.offerRecord_extends _ _
  rw [State.portFailed_eq]
  show ∃ more, (s.portAborted i).log.records = _
  unfold State.portAborted
  split
  · exact ⟨first, flagged⟩
  · obtain ⟨second, aborted⟩ := (s.portFlagged i).abort_extends .mediaFailed
    exact ⟨first ++ second, by rw [aborted, flagged, List.append_assoc]⟩

theorem State.portFailed_out : ∃ rest, (s.portFailed i).ctl.out = s.ctl.out ++ rest := by
  obtain ⟨f, -, ctl⟩ := (s.portAborted_steady i).queue
  have flagged : (s.portFlagged i).ctl = s.ctl := by simp [State.portFlagged]
  rw [State.portFailed_eq, ← flagged]
  exact ⟨_, congrArg (·.out ++ _) ctl⟩

/-- LOG_NONEMPTY apart, a flag's place is one that the register keeps (R174). -/
theorem Flag.bit_kept {f : Flag} (other : f ≠ .logNonempty) :
    (0x07FE#16).getLsbD f.bit = true ∧ (1#16).getLsbD f.bit = false := by
  cases f
  case logNonempty => exact absurd rfl other
  all_goals exact ⟨rfl, rfl⟩

/-- A flag but LOG_NONEMPTY reads as its bit of the flags (R169, R174). -/
theorem State.flag_eq {f : Flag} (other : f ≠ .logNonempty) : s.flag f = s.flags.getLsbD f.bit := by
  obtain ⟨named, apart⟩ := Flag.bit_kept other
  have log : (if s.log.records.isEmpty then 0#16 else 1#16).getLsbD f.bit = false := by
    split
    · exact BitVec.getLsbD_zero
    · exact apart
  show ((s.flags &&& 0x07FE#16) ||| if s.log.records.isEmpty then 0#16 else 1#16).getLsbD f.bit = _
  rw [BitVec.getLsbD_or, BitVec.getLsbD_and, named, log, Bool.and_true, Bool.or_false]

theorem State.portFailed_flag : (s.portFailed i).flag .mediaFailed = true := by
  have flagged : (s.portFlagged i).flags.getLsbD 7 = true := by
    rw [State.portFlagged, State.setFlag_flags, BitVec.getLsbD_or, Bool.or_eq_true]
    exact .inr rfl
  have aborted : (s.portAborted i).flags.getLsbD 7 = true := by
    unfold State.portAborted
    split
    · exact flagged
    · rcases (s.portFlagged i).abort_flags .mediaFailed with flags | flags
      · rw [flags, flagged]
      · rw [flags, BitVec.getLsbD_or, flagged, Bool.true_or]
  rw [State.flag_eq _ (by decide), State.portFailed_eq]
  show (if _ then (s.portAborted i).flags ||| 0x0200#16 else (s.portAborted i).flags).getLsbD 7 = true
  split
  · rw [BitVec.getLsbD_or, aborted, Bool.true_or]
  · exact aborted

end Leaves

/-! ### The expiry of a phase timer (R135, R136; LOG 17) -/

section Expiry

variable {s : State} {i : SlotNo} {w : Work}

/-- The entry into FAILED where the timeout of slot `i` is the fourth in a row of a port that is OK (R138). -/
def State.timeoutEnds (s : State) (i : SlotNo) (t : State) : State :=
  if s.media.failed = false ∧ 3 ≤ s.media.timeouts then t.portFailed i else t

/-- Telling the owner leaves the port as it was but for the slots (R136). -/
theorem State.tellTimeout_port (t : State) (w : Work) :
    (t.tellTimeout w).media.failed = t.media.failed ∧ (t.tellTimeout w).media.timeouts = t.media.timeouts := by
  unfold State.tellTimeout
  split
  · exact ⟨rfl, rfl⟩
  · cases w.owner with
    | upstream tag attached =>
      dsimp only
      split
      · exact ⟨rfl, rfl⟩
      · simp
    | copy =>
      dsimp only
      rw [(State.Steady.abort t .mediaTimeout).port]
      exact ⟨rfl, rfl⟩
    | patrol => simp

theorem exec_mediaTimeout (work : (s.slot i).work = some w) : exec (.mediaTimeout i) s =
    .next (State.afterTimeout (s.timeoutEnds i ((s.timedOut i w).tellTimeout w)) w) := by
  have ran : exec (.mediaTimeout i) s = .next (s.timeout i w) := by
    show execMediaTimeout i s = _
    rw [execMediaTimeout, work]
  obtain ⟨failed, timeouts⟩ := (s.timedOut i w).tellTimeout_port w
  have own : (s.timedOut i w).media.timeouts = min (s.media.timeouts + 1) 4 ∧ (s.timedOut i w).media.failed = s.media.failed := by
    rw [State.timedOut_media]
    exact ⟨rfl, rfl⟩
  have fourth : (min (s.media.timeouts + 1) 4 = 4 ∧ s.media.failed = false) ↔
      s.media.failed = false ∧ 3 ≤ s.media.timeouts := by
    rw [and_comm]
    exact and_congr_right fun _ => by omega
  rw [ran, State.timeout_eq]
  simp only [failed, timeouts, own, fourth, State.enterFailed_eq, State.timeoutEnds]

theorem exec_mediaTimeout_of_free (free : (s.slot i).work = none) : exec (.mediaTimeout i) s = .next s := by
  show execMediaTimeout i s = _
  rw [execMediaTimeout, free]

end Expiry

/-! ### The owner is told (R136) -/

section Owner

variable {s : State} {i : SlotNo} {w : Work}

theorem exec_mediaTimeout_of_alone (work : (s.slot i).work = some w)
    (alone : w.stage = .orphan ∨ ∃ tag, w.owner = .upstream tag false) :
    exec (.mediaTimeout i) s = .next (s.timeoutEnds i (s.timedOut i w)) := by
  rw [exec_mediaTimeout work, State.tellTimeout, State.afterTimeout]
  by_cases orphan : w.stage = .orphan
  · rw [if_pos orphan, if_pos orphan]
  · obtain ⟨tag, owner⟩ := alone.resolve_left orphan
    simp only [if_neg orphan, owner]
    rfl

theorem State.freeSlot_of_free (free : (s.slot i).work = none) : s.freeSlot i = s := by
  have kept : s.media.slots.set i.toNat (s.slot i) i.isLt = s.media.slots := Vector.set_getElem_self _
  rw [State.freeSlot, ← free, State.setSlot, kept]

/-- The slot of a timeout is FREE before its request is answered. -/
theorem State.timedOut_freed (s : State) (i : SlotNo) (w : Work) : (s.timedOut i w).freeSlot i = s.timedOut i w :=
  State.freeSlot_of_free (congrArg MediaSlot.work (s.timedOut_slot i w))

theorem exec_mediaTimeout_of_upstream (work : (s.slot i).work = some w) {tag : Tag} {e : IrqEntry} (stage : w.stage ≠ .orphan)
    (owner : w.owner = .upstream tag true) (own : s.ctl.irq.find? (fun x => x.tag == tag) = some e) :
    exec (.mediaTimeout i) s =
      .next (s.timeoutEnds i ((s.timedOut i w).endWithAnswer i tag (e.failed .mediaTimeout))) := by
  have entry : (s.timedOut i w).entryOfTag tag = some e := by
    rw [State.entryOfTag, State.timedOut_ctl, own]
  rw [exec_mediaTimeout work, State.tellTimeout, State.afterTimeout, State.endWithAnswer, State.timedOut_freed,
    IrqEntry.failed_eq, (found_by_tag own).2]
  simp only [if_neg stage, owner, if_true, entry]

theorem exec_mediaTimeout_of_copy (work : (s.slot i).work = some w) (stage : w.stage ≠ .orphan) (owner : w.owner = .copy) :
    exec (.mediaTimeout i) s = .next (s.timeoutEnds i ((s.timedOut i w).abort .mediaTimeout)).engineTake := by
  rw [exec_mediaTimeout work, State.tellTimeout, State.afterTimeout]
  simp only [if_neg stage, owner]

theorem exec_mediaTimeout_of_patrol (work : (s.slot i).work = some w) (stage : w.stage ≠ .orphan) (owner : w.owner = .patrol) :
    exec (.mediaTimeout i) s = exec .patrolReadIssue (s.timeoutEnds i (s.timedOut i w).endPatrolStep) := by
  rw [exec_mediaTimeout work, State.tellTimeout, State.afterTimeout]
  simp only [if_neg stage, owner]
  rfl

end Owner

/-! ### A request's phase timed out (R135 to R138) -/

section Answered

variable (s : State) (i : SlotNo) (w : Work) {tag : Tag}

theorem State.closeIfEmpty_out (t : State) : t.closeIfEmpty.ctl.out = t.ctl.out := by
  unfold State.closeIfEmpty
  split <;> rfl

/-- The answer to a timed-out request leaves what the timeout's own effects left beside the controller port (R136, R152). -/
theorem State.timedOut_endWithAnswer (tag : Tag) (m : CtlMsg) :
    let t := (s.timedOut i w).endWithAnswer i tag m
    t.us = max s.us (w.start + 50) ∧ t.slot i = { epoch := (s.slot i).epoch + 1, work := none }
      ∧ t.media.failed = s.media.failed ∧ t.media.timeouts = min (s.media.timeouts + 1) 4
      ∧ t.counter .mediaTimeouts = min (s.counter .mediaTimeouts + 1) 65535 ∧ t.log = (s.timedOut i w).log := by
  intro t
  have answered : t = (s.timedOut i w).retire tag m := congrArg (·.retire tag m) (s.timedOut_freed i w)
  have media : t.media = (s.timedOut i w).media := by simp [answered]
  refine ⟨?_, (State.slot_congr media i).trans (s.timedOut_slot i w), ?_, ?_, ?_, ?_⟩
  · rw [← s.timedOut_us i w, answered]
    simp
  · rw [media, State.timedOut_media]
  · rw [media, State.timedOut_media]
  · rw [← s.timedOut_counter i w, State.counter, State.counter, answered]
    simp
  · simp [answered]

theorem State.timedOut_endWithAnswer_out (m : CtlMsg) (found : ∃ e ∈ s.ctl.irq, e.tag = tag) (port : s.media.failed = false) :
    ((s.timedOut i w).endWithAnswer i tag m).ctl.out = s.ctl.out ++ [m] := by
  have found' : ∃ e ∈ (s.timedOut i w).ctl.irq, e.tag = tag := by rwa [State.timedOut_ctl]
  have port' : (s.timedOut i w).media.failed = false := by rwa [State.timedOut_media]
  rw [State.endWithAnswer, State.timedOut_freed, State.retire_eq m found', State.closeIfEmpty_out, State.retired_ok tag m port',
    State.timedOut_ctl]

end Answered

/-- Settles O33: the timeout's own effects, then each owner's telling; a request's fourth timeout in a row by what the entry into
FAILED leaves. -/
theorem phaseTimeoutFreesTheSlot : Obligations.PhaseTimeoutFreesTheSlot := by
  refine ⟨fun s i w tag e work owner stage own port few room => ?_, fun s i w work => ?_,
    fun s i free => exec_mediaTimeout_of_free free⟩
  · have ran := exec_mediaTimeout_of_upstream work stage owner own
    obtain ⟨us, slot, failed, timeouts, counter, log⟩ := s.timedOut_endWithAnswer i w tag (e.failed .mediaTimeout)
    have out := s.timedOut_endWithAnswer_out i w (e.failed .mediaTimeout) ⟨e, found_by_tag own⟩ port
    obtain ⟨o, record, kind, line, detail⟩ := s.timedOut_log i w (by omega)
    have answer : e.failed .mediaTimeout =
        if e.kind.writes then .writeResponse tag (some .mediaTimeout) else .readFail tag .mediaTimeout := by
      rw [IrqEntry.failed_eq, (found_by_tag own).2, failAnswer]
    generalize (s.timedOut i w).endWithAnswer i tag (e.failed .mediaTimeout) = t at *
    rw [answer] at out
    rw [← log] at record
    rw [Nat.min_eq_left (by omega)] at timeouts
    refine ⟨_, ran, ?_⟩
    by_cases fourth : s.media.timeouts = 3
    · obtain ⟨fails, kept⟩ := t.portFailed_media i
      obtain ⟨rest, answers⟩ := t.portFailed_out i
      obtain ⟨more, records⟩ := t.portFailed_extends i
      rw [out, List.append_assoc] at answers
      rw [record, List.append_assoc] at records
      rw [State.timeoutEnds, if_pos ⟨port, fourth.ge⟩, t.portFailed_us, t.portFailed_slot_free i (congrArg MediaSlot.work slot),
        slot, kept, t.portFailed_counter i (by decide)]
      exact ⟨us, rfl, rfl, timeouts, counter, ⟨rest, answers, (absurd fourth ·)⟩, ⟨fun _ => fourth, fun _ => fails⟩,
        fun _ => ⟨t.portFailed_stopped i, t.portFailed_flag i⟩, o, more, records, kind, line, detail, (absurd fourth ·)⟩
    · rw [State.timeoutEnds, if_neg fun ends => fourth (le_antisymm few ends.2), slot, failed, port]
      exact ⟨us, rfl, rfl, timeouts, counter, ⟨[], out, fun _ => rfl⟩, ⟨nofun, (absurd · fourth)⟩, (absurd · fourth),
        o, [], record, kind, line, detail, fun _ => rfl⟩
  · exact ⟨exec_mediaTimeout_of_alone work, fun tag e stage owner own => exec_mediaTimeout_of_upstream work stage owner own,
      exec_mediaTimeout_of_copy work, exec_mediaTimeout_of_patrol work⟩

end Sys2Proof.Machine
end

section
/-! THEOREMS. The counters of the dispatched outcomes (R80), and the outcomes of written lines and poison markers (R75 to R77). -/

namespace Sys2Proof.Machine

/-! ### The counters of the outcomes, and what leaves them (R80, R166)

A dispatch counts its outcome first. All that may follow counts in other places of the table of R166: the charge, the records,
the exhaustion, the sparing offer, and what the engine then does. -/

/-- The first three counters of the table of R166: those that dispatched outcomes advance (R80). -/
def Counter.countsOutcomes (c : Counter) : Bool := c.index < 3

theorem State.counter_congr {a b : State} (same : a.counters = b.counters) (c : Counter) : a.counter c = b.counter c := by
  rw [State.counter, same, State.counter]

/-- A counter's event leaves the others (R166). -/
theorem State.count_counter_of_ne (s : State) {c k : Counter} (other : k.index ≠ c.index) :
    (s.count k).counter c = s.counter c :=
  Vector.getElem_set_ne k.index.isLt c.index.isLt (Fin.val_ne_of_ne other)

section Kept

variable {c : Counter} (counts : c.countsOutcomes = true)

include counts

theorem Counter.index_ne_of_countsOutcomes {k : Counter} (other : k.countsOutcomes = false) : k.index ≠ c.index := by
  intro same
  have agree : k.countsOutcomes = c.countsOutcomes := by rw [Counter.countsOutcomes, same, Counter.countsOutcomes]
  exact Bool.false_ne_true (other.symm.trans (agree.trans counts))

theorem State.count_keepsOutcomes (s : State) {k : Counter} (other : k.countsOutcomes = false) :
    (s.count k).counter c = s.counter c :=
  s.count_counter_of_ne (Counter.index_ne_of_countsOutcomes counts other)

theorem State.offerRecord_keepsOutcomes (s : State) (o : Offer) : (s.offerRecord o).counter c = s.counter c :=
  s.offerRecord_counter o (Counter.index_ne_of_countsOutcomes counts rfl)

theorem State.charge_keepsOutcomes (s : State) (bank row logical : Nat) :
    (s.charge bank row logical).1.counter c = s.counter c := by
  unfold State.charge
  dsimp only
  split
  · split <;> rfl
  · split
    · rfl
    · split
      · rfl
      · split
        · exact State.count_keepsOutcomes counts (s.setWatch _) rfl
        · exact State.count_keepsOutcomes counts s rfl

theorem State.refuseRequest_keepsOutcomes (s : State) (r : SpareRequest) (reason : RefusalReason) :
    (s.refuseRequest r reason).counter c = s.counter c :=
  (State.count_keepsOutcomes counts _ rfl).trans (State.offerRecord_keepsOutcomes counts s _)

theorem State.startMigration_keepsOutcomes (s : State) (r : SpareRequest) (slot : Nat) (old : Option RemapEntry) (spare : Nat) :
    (s.startMigration r slot old spare).counter c = s.counter c := by
  refine (State.offerRecord_keepsOutcomes counts _ _).trans (State.counter_congr ?_ c)
  cases old <;> simp

/-- By induction over the refusals (R51). -/
theorem engineTakeFuel_keepsOutcomes (n : Nat) (s : State) : (engineTakeFuel n s).counter c = s.counter c := by
  induction n generalizing s with
  | zero => rfl
  | succ n ih =>
    unfold engineTakeFuel
    split
    · split
      · rfl
      · rw [ih, State.refuseRequest_keepsOutcomes counts]
        rfl
      · exact State.startMigration_keepsOutcomes counts _ _ _ _ _
    · rfl

theorem State.engineTake_keepsOutcomes (s : State) : s.engineTake.counter c = s.counter c :=
  engineTakeFuel_keepsOutcomes counts _ s

theorem State.offerSparing_keepsOutcomes (s : State) (bank row : Nat) (cause : SpareCause) :
    (s.offerSparing bank row cause).counter c = s.counter c := by
  unfold State.offerSparing
  split
  · rfl
  · rfl
  · exact (State.count_keepsOutcomes counts _ rfl).trans (State.offerRecord_keepsOutcomes counts s _)
  · exact State.engineTake_keepsOutcomes counts _

theorem State.restart_keepsOutcomes (s : State) (x : EngineCtx) (e : RemapEntry) (k : Nat) :
    (s.restart x e k).counter c = s.counter c := by
  obtain ⟨-, counters, -⟩ := s.restart_reports x e k
  rw [State.counter_congr counters, State.count_keepsOutcomes counts _ rfl,
    State.offerRecord_keepsOutcomes counts]

theorem State.destinationFailure_keepsOutcomes (s : State) : s.destinationFailure.counter c = s.counter c := by
  have aborted (y : AbortReason) : (s.abort y).engineTake.counter c = s.counter c :=
    (State.engineTake_keepsOutcomes counts _).trans (s.abort_counter y (Counter.index_ne_of_countsOutcomes counts rfl))
  unfold State.destinationFailure
  split
  · rfl
  · split
    · exact aborted _
    · split
      · exact aborted _
      · exact State.restart_keepsOutcomes counts s _ _ _

/-- An offer that a policy bit allows (R82, R100). -/
theorem State.offerSparing_if_keepsOutcomes (s : State) (allowed : Bool) (bank row : Nat) (cause : SpareCause) :
    (if allowed then s.offerSparing bank row cause else s).counter c = s.counter c := by
  split
  · exact State.offerSparing_keepsOutcomes counts s _ _ _
  · rfl

theorem State.dispatchExhaustion_keepsOutcomes (s : State) (bank row : Nat) :
    (s.dispatchExhaustion bank row).counter c = s.counter c := by
  unfold State.dispatchExhaustion
  split
  · exact State.offerSparing_if_keepsOutcomes counts s _ _ _ _
  · exact State.offerSparing_if_keepsOutcomes counts s _ _ _ _
  · exact State.destinationFailure_keepsOutcomes counts s
  all_goals rfl

theorem State.failedDestinationRead_keepsOutcomes (s : State) (f : ReadFacts) :
    (s.failedDestinationRead f).counter c = s.counter c := by
  cases found : s.remap.find (bankOf f.line) (rowOf f.line) with
  | none => rw [s.failedDestinationRead_none found]
  | some x =>
    rw [s.failedDestinationRead_some found]
    split
    · split
      · exact State.destinationFailure_keepsOutcomes counts s
      · exact State.offerSparing_if_keepsOutcomes counts s _ _ _ _
    · rfl

theorem State.ueOffer_keepsOutcomes (s : State) (f : ReadFacts) : (s.ueOffer f).counter c = s.counter c := by
  unfold State.ueOffer
  split
  · rfl
  · split
    · exact State.failedDestinationRead_keepsOutcomes counts s f
    · exact State.offerSparing_if_keepsOutcomes counts s _ _ _ _

/-- All that follows the count of a CORRECTED outcome: the charge, the record under CE_LOG, an exhaustion's record and consequence
(R79, R101). -/
theorem State.dispatchCorrected_counter (s : State) (f : ReadFacts) :
    (s.dispatchCorrected f).counter c = (s.count .ceTotal).counter c := by
  have charged := State.charge_keepsOutcomes counts (s.count .ceTotal) f.addr.bank f.addr.row (rowOf f.line)
  unfold State.dispatchCorrected
  generalize (s.count .ceTotal).charge f.addr.bank f.addr.row (rowOf f.line) = r at charged
  have logged : (if (r.1.policy (rowOf f.line)).ceLog then r.1.offerRead f (ceKind f.origin) f.detail else r.1).counter c
      = r.1.counter c := by
    split
    · exact State.offerRecord_keepsOutcomes counts _ _
    · rfl
  rw [← charged, ← logged]
  dsimp only
  split
  · rfl
  · exact (State.dispatchExhaustion_keepsOutcomes counts _ _ _).trans (State.offerRecord_keepsOutcomes counts _ _)

end Kept

/-! ### What a dispatch counts (R80) -/

/-- The counter that a delivered outcome advances (R80). -/
def ReadOutcome.countedIn : ReadOutcome → Option Counter
  | .clean => none
  | .corrected => some .ceTotal
  | .uncorrectable => some .ueTotal
  | .poison => some .poisonReads

/-- The places of the table of R166 are the counters' own. -/
theorem Counter.index_injective : Function.Injective Counter.index :=
  Function.LeftInverse.injective (g := fun i => Counter.ofNat i.val) fun c => by cases c <;> rfl

theorem State.count_counter_eq (s : State) (k c : Counter) :
    (s.count k).counter c = if some k = some c then min (s.counter c + 1) 65535 else s.counter c := by
  split
  · next same => rw [Option.some.inj same, State.count_counter]
  · next other => exact s.count_counter_of_ne fun index => other (congrArg some (Counter.index_injective index))

/-- Of the counters of the outcomes, a dispatch advances the one of its delivered outcome (R80). -/
theorem State.dispatch_counter (s : State) (f : ReadFacts) {c : Counter} (counts : c.countsOutcomes = true) :
    (s.dispatch f).counter c =
      if f.delivered.countedIn = some c then min (s.counter c + 1) 65535 else s.counter c := by
  cases delivered : f.delivered with
  | clean => rw [State.dispatch, delivered]; rfl
  | corrected =>
    rw [State.dispatch, delivered]
    exact (State.dispatchCorrected_counter counts s f).trans (s.count_counter_eq .ceTotal c)
  | uncorrectable =>
    have seen : (s.ueSeen f).counter c = (s.count .ueTotal).counter c := State.offerRecord_keepsOutcomes counts _ _
    rw [s.dispatch_uncorrectable delivered, State.ueOffer_keepsOutcomes counts, seen]
    exact s.count_counter_eq .ueTotal c
  | poison =>
    rw [State.dispatch, delivered]
    exact s.count_counter_eq .poisonReads c

/-- Settles O28: the count is a dispatch's first effect, and what follows it counts elsewhere. -/
theorem dispatchCountsTheDeliveredOutcome : Obligations.DispatchCountsTheDeliveredOutcome := by
  intro s f
  rw [s.dispatch_counter f (c := .ceTotal) rfl, s.dispatch_counter f (c := .ueTotal) rfl,
    s.dispatch_counter f (c := .poisonReads) rfl]
  cases f.delivered <;> exact ⟨rfl, rfl, rfl⟩

/-! ### Written lines and poison markers (R74 to R77; LOG 9, LOG 10) -/

theorem poisonConstant_ne_zero : Config.poisonConstant ≠ 0 := Config.checkCode.promise.constant_nonzero

/-- Check bytes combined with the poison constant are other check bytes (R77). -/
theorem xor_poisonConstant_ne (check : CheckBytes) : check ^^^ Config.poisonConstant ≠ check :=
  fun same => poisonConstant_ne_zero (BitVec.xor_right_inj check |>.mp (same.trans BitVec.xor_zero.symm))

/-- Test 1 of R76 holds of a line as written. -/
theorem classify_sealLine (data : LineData) : classify (sealLine data) = (.clean, data) := if_pos rfl

/-- Test 1 of R76 fails of an intact marker and test 2 holds. -/
theorem classify_poisonMarker : classify poisonMarker = (.poison, 0) :=
  (if_neg (xor_poisonConstant_ne (Config.checkBytes 0))).trans (if_pos rfl)

theorem sealLine_zero_ne_poisonMarker : sealLine 0 ≠ poisonMarker :=
  fun same => xor_poisonConstant_ne (Config.checkBytes 0) (congrArg StoredLine.check same).symm

/-- Settles O26: an intact line or marker by the tests of R76, a changed one by the guarantees that the free code carries. -/
theorem sealedLinesReadCleanAndMarkersReadPoison : Obligations.SealedLinesReadCleanAndMarkersReadPoison := by
  have promise : CodePromise Config.checkBytes Config.poisonConstant := Config.checkCode.promise
  refine ⟨classify_sealLine, classify_poisonMarker, sealLine_zero_ne_poisonMarker, fun _ => rfl, rfl,
    poisonConstant_ne_zero, fun data i x symbol low high => ⟨?_, ?_⟩,
    fun data i x j y apart symbol lowX highX lowY highY => ⟨?_, ?_⟩⟩
  · exact promise.one_symbol data i x symbol low high
  · exact promise.marker_one i x symbol low high
  · exact promise.two_symbols data i x j y apart symbol lowX highX lowY highY
  · exact promise.marker_two i x j y apart symbol lowX highX lowY highY

end Sys2Proof.Machine
end

section
/-! THEOREMS. The Watch List: what a charge does to it (R93 to R95), and the laws that every step keeps of it (R89, R91). -/

namespace Sys2Proof.Machine

/-! ### The entry of a row (R89) -/

theorem watchFind_none_iff {es : List WatchEntry} {bank row : Nat} :
    watchFind es bank row = none ↔ ∀ e ∈ es, ¬(e.bank = bank ∧ e.row = row) := by
  simp [watchFind]

theorem watchFind_some {es : List WatchEntry} {bank row : Nat} {e : WatchEntry} (found : watchFind es bank row = some e) :
    e ∈ es ∧ e.bank = bank ∧ e.row = row :=
  ⟨List.mem_of_find?_eq_some found, by simpa using List.find?_some found⟩

section Laws

variable {w : Watch} {e x : WatchEntry}

/-- A row has one entry at most. -/
theorem Watch.Ok.entry_unique (law : w.Ok) (hx : x ∈ w.entries) (he : e ∈ w.entries) (bank : x.bank = e.bank)
    (row : x.row = e.row) : x = e :=
  List.inj_on_of_nodup_map law.rows_unique hx he (Prod.ext bank row)

theorem Watch.Ok.watchFind_mem (law : w.Ok) (he : e ∈ w.entries) : watchFind w.entries e.bank e.row = some e := by
  cases found : watchFind w.entries e.bank e.row with
  | none => exact absurd ⟨rfl, rfl⟩ (watchFind_none_iff.mp found e he)
  | some x =>
    obtain ⟨hx, bank, row⟩ := watchFind_some found
    rw [law.entry_unique hx he bank row]

/-- The removal of a row's entry removes that entry and no other. -/
theorem Watch.Ok.eraseP_row (law : w.Ok) (he : e ∈ w.entries) :
    w.entries.eraseP (fun x => x.bank == e.bank && x.row == e.row) = w.entries.filter (· ≠ e) := by
  obtain ⟨x, before, after, older, hit, split, erased⟩ :=
    List.exists_of_eraseP (p := fun x => x.bank == e.bank && x.row == e.row) he (by simp)
  have same : x = e := by
    obtain ⟨bank, row⟩ : x.bank = e.bank ∧ x.row = e.row := by simpa using hit
    exact law.entry_unique (by simp [split]) he bank row
  subst same
  calc
    _ = before ++ after := erased
    _ = w.entries.erase x := by
      rw [split, List.erase_append_right _ fun member => older x member hit, List.erase_cons_head]
    _ = w.entries.filter (· ≠ x) := by
      rw [(List.Nodup.of_map _ law.rows_unique).erase_eq_filter]
      exact List.filter_congr fun y _ => Bool.eq_iff_iff.mpr (by simp)

end Laws

/-! ### The oldest entry of the highest budget (R95) -/

/-- `top` is the oldest entry of the highest budget of the list that it parts into `before` and `after`. -/
structure OldestHighest (es before : List WatchEntry) (top : WatchEntry) (after : List WatchEntry) : Prop where
  split : es = before ++ top :: after
  older : ∀ e ∈ before, e.budget < top.budget
  newer : ∀ e ∈ after, e.budget ≤ top.budget

section OldestHighest

variable {es before after : List WatchEntry} {top : WatchEntry}

theorem OldestHighest.highestBudget (oldest : OldestHighest es before top after) : highestBudget es = top.budget := by
  refine highestBudget_eq (by simp [oldest.split]) fun e he => ?_
  rw [oldest.split, List.mem_append, List.mem_cons] at he
  rcases he with he | rfl | he
  · exact (oldest.older e he).le
  · exact le_rfl
  · exact oldest.newer e he

theorem OldestHighest.eraseP (oldest : OldestHighest es before top after) :
    es.eraseP (fun x => x.budget == top.budget) = before ++ after := by
  have missed : ∀ e ∈ before, ¬(e.budget == top.budget) = true := fun e he => by simpa using (oldest.older e he).ne
  rw [oldest.split, List.eraseP_append_right _ missed]
  exact congrArg (before ++ ·) (List.eraseP_cons_of_pos (beq_self_eq_true top.budget))

/-- By induction from the newest entry: an older one gives way to a higher budget behind it alone. -/
theorem exists_oldestHighest (some_entry : es ≠ []) : ∃ before top after, OldestHighest es before top after := by
  induction es with
  | nil => exact absurd rfl some_entry
  | cons e es ih =>
    by_cases last : es = []
    · exact ⟨[], e, [], by rw [last]; rfl, nofun, nofun⟩
    · obtain ⟨before, top, after, oldest⟩ := ih last
      by_cases higher : e.budget < top.budget
      · exact ⟨e :: before, top, after, congrArg (e :: ·) oldest.split, List.forall_mem_cons.mpr ⟨higher, oldest.older⟩,
          oldest.newer⟩
      · refine ⟨[], e, es, rfl, nofun, fun x hx => ?_⟩
        rw [oldest.split, List.mem_append, List.mem_cons] at hx
        rcases hx with hx | rfl | hx
        · have := oldest.older x hx
          omega
        · omega
        · have := oldest.newer x hx
          omega

end OldestHighest

/-! ### The rules of a charge (R93 to R95) -/

/-- The entry that a charge begins for a row (R94). -/
def State.newEntry (s : State) (bank row logical : Nat) : WatchEntry :=
  { bank := bank, row := row, logical := logical, threshold := s.classThreshold logical, budget := s.classThreshold logical - 1
    errors := 1, time := s.now }

section Charge

variable {s : State} {bank row logical : Nat}

section Found

variable {e : WatchEntry} (found : watchFind s.watch.entries bank row = some e)

include found

/-- A charge that leaves a budget spends from it (R93). -/
theorem State.charge_spends (more : 2 ≤ e.budget) : s.charge bank row logical =
    (s.setWatch (s.watch.entries.map fun x => if x.bank = bank ∧ x.row = row then x.charged logical s.now else x), none) := by
  have left : ¬(e.charged logical s.now).budget = 0 := show ¬(e.budget - 1 = 0) by omega
  simp only [State.charge, found, if_neg left]

/-- A charge of the last of a budget removes the entry and reports the exhaustion (R93). -/
theorem State.charge_exhausts (last : e.budget ≤ 1) : s.charge bank row logical =
    (s.setWatch (s.watch.entries.eraseP fun x => x.bank == bank && x.row == row), some (min (e.errors + 1) 255)) := by
  have left : (e.charged logical s.now).budget = 0 := show e.budget - 1 = 0 by omega
  simp only [State.charge, found, if_pos left]
  rfl

end Found

section Missed

variable (missed : watchFind s.watch.entries bank row = none)

include missed

/-- A charge of a row without an entry under a threshold of 1 (R94). -/
theorem State.charge_exhausts_at_once (least : s.classThreshold logical ≤ 1) : s.charge bank row logical = (s, some 1) := by
  have none_left : s.classThreshold logical - 1 = 0 := by omega
  simp only [State.charge, missed, if_pos none_left]

/-- A charge that begins an entry while there is room (R94). -/
theorem State.charge_begins (more : 2 ≤ s.classThreshold logical) (room : s.watch.entries.length < 64) : s.charge bank row logical =
    (s.setWatch (s.watch.entries ++ [s.newEntry bank row logical]), none) := by
  have some_left : ¬s.classThreshold logical - 1 = 0 := by omega
  have room' : s.watch.entries.length < Config.watchPlaces := room
  simp only [State.charge, missed, if_neg some_left, if_pos room']
  rfl

variable (full : 64 ≤ s.watch.entries.length) {before after : List WatchEntry} {top : WatchEntry}
  (oldest : OldestHighest s.watch.entries before top after)

include full oldest

/-- A charge that begins an entry in a full list in the place of one with no less budget (R95). -/
theorem State.charge_evicts (more : 2 ≤ s.classThreshold logical) (gives : s.classThreshold logical - 1 ≤ top.budget) :
    s.charge bank row logical = ((s.setWatch (before ++ after ++ [s.newEntry bank row logical])).count .watchEvictions, none) := by
  have some_left : ¬s.classThreshold logical - 1 = 0 := by omega
  have no_room : ¬s.watch.entries.length < Config.watchPlaces := Nat.not_lt.mpr full
  simp only [State.charge, missed, if_neg some_left, if_neg no_room, oldest.highestBudget, if_pos gives, oldest.eraseP]
  rfl

/-- A charge that finds a full list of less budget (R95). -/
theorem State.charge_passes (stays : top.budget < s.classThreshold logical - 1) : s.charge bank row logical =
    (s.count .watchMisses, none) := by
  have some_left : ¬s.classThreshold logical - 1 = 0 := by omega
  have no_room : ¬s.watch.entries.length < Config.watchPlaces := Nat.not_lt.mpr full
  simp only [State.charge, missed, if_neg some_left, if_neg no_room, oldest.highestBudget, if_neg (Nat.not_le.mpr stays)]

end Missed

end Charge

/-! ### The laws of the Watch List over its changes (R89, R91) -/

/-- The law of one entry (R89). -/
def WatchEntry.Ok (e : WatchEntry) : Prop := 1 ≤ e.budget ∧ e.budget < e.threshold ∧ e.threshold ≤ 255 ∧ e.errors ≤ 255

section Changes

variable {w : Watch} (law : w.Ok)

include law

/-- The laws do not read the period and the timer. -/
theorem Watch.Ok.withTimer (next : Option Nat) : Watch.Ok { w with nextExpiry := next } :=
  ⟨law.few, law.rows_unique, law.budgets, law.classes⟩

/-- Entries removed. -/
theorem Watch.Ok.sublist {es : List WatchEntry} (fewer : es.Sublist w.entries) : Watch.Ok { w with entries := es } :=
  ⟨fewer.length_le.trans law.few, law.rows_unique.sublist (fewer.map _), fun e he => law.budgets e (fewer.mem he), law.classes⟩

/-- Entries changed in place, each of its row still. -/
theorem Watch.Ok.map {f : WatchEntry → WatchEntry} (row : ∀ e, (f e).bank = e.bank ∧ (f e).row = e.row)
    (lawful : ∀ e ∈ w.entries, (f e).Ok) : Watch.Ok { w with entries := w.entries.map f } := by
  refine ⟨by simpa using law.few, ?_, List.forall_mem_map.mpr lawful, law.classes⟩
  have rows : (w.entries.map f).map (fun e => (e.bank, e.row)) = w.entries.map fun e => (e.bank, e.row) := by
    rw [List.map_map]
    exact List.map_congr_left fun e _ => Prod.ext (row e).1 (row e).2
  exact rows ▸ law.rows_unique

/-- An entry of a row without one added at the tail. -/
theorem Watch.Ok.append {e : WatchEntry} (room : w.entries.length < 64) (missed : watchFind w.entries e.bank e.row = none)
    (lawful : e.Ok) : Watch.Ok { w with entries := w.entries ++ [e] } := by
  have absent : (e.bank, e.row) ∉ w.entries.map fun x => (x.bank, x.row) := by
    intro listed
    obtain ⟨x, hx, same⟩ := List.mem_map.mp listed
    exact watchFind_none_iff.mp missed x hx (Prod.mk.inj same)
  refine ⟨by simpa using room, ?_, fun x hx => ?_, law.classes⟩
  · rw [List.map_append]
    exact List.concat_eq_append ▸ law.rows_unique.concat absent
  · rcases List.mem_append.mp hx with old | new
    · exact law.budgets x old
    · rw [List.mem_singleton.mp new]
      exact lawful

end Changes

section ChargeLaws

variable {s : State} {bank row logical : Nat}

theorem State.classThreshold_le (law : s.watch.Ok) : s.classThreshold logical ≤ 255 :=
  (law.classes (s.policy logical).cls).2

theorem State.newEntry_ok (law : s.watch.Ok) (more : 2 ≤ s.classThreshold logical) : (s.newEntry bank row logical).Ok := by
  have bound : s.classThreshold logical ≤ 255 := State.classThreshold_le law
  show 1 ≤ s.classThreshold logical - 1 ∧ s.classThreshold logical - 1 < s.classThreshold logical
    ∧ s.classThreshold logical ≤ 255 ∧ 1 ≤ 255
  omega

theorem WatchEntry.Ok.charged {e : WatchEntry} (law : e.Ok) (more : 2 ≤ e.budget) (now : Millis) : (e.charged logical now).Ok := by
  obtain ⟨_, below, bound, _⟩ := law
  show 1 ≤ e.budget - 1 ∧ e.budget - 1 < e.threshold ∧ e.threshold ≤ 255 ∧ min (e.errors + 1) 255 ≤ 255
  omega

/-- By the rules of a charge of a row with an entry. -/
theorem State.charge_keeps_watch_found (law : s.watch.Ok) {e : WatchEntry} (found : watchFind s.watch.entries bank row = some e) :
    (s.charge bank row logical).1.watch.Ok := by
  obtain ⟨he, bank_eq, row_eq⟩ := watchFind_some found
  by_cases more : 2 ≤ e.budget
  · rw [State.charge_spends found more]
    refine law.map (fun x => ?_) fun x hx => ?_
    · split <;> exact ⟨rfl, rfl⟩
    · split
      · next own =>
        obtain rfl := law.entry_unique hx he (own.1.trans bank_eq.symm) (own.2.trans row_eq.symm)
        exact WatchEntry.Ok.charged (law.budgets x hx) more s.now
      · exact law.budgets x hx
  · rw [State.charge_exhausts found (by omega)]
    exact law.sublist List.eraseP_sublist

/-- By the rules of a charge of a row without an entry. -/
theorem State.charge_keeps_watch_missed (law : s.watch.Ok) (missed : watchFind s.watch.entries bank row = none) :
    (s.charge bank row logical).1.watch.Ok := by
  by_cases more : 2 ≤ s.classThreshold logical
  · have lawful : (s.newEntry bank row logical).Ok := State.newEntry_ok law more
    by_cases room : s.watch.entries.length < 64
    · rw [State.charge_begins missed more room]
      exact law.append room missed lawful
    · have full : 64 ≤ s.watch.entries.length := Nat.not_lt.mp room
      obtain ⟨before, top, after, oldest⟩ :=
        exists_oldestHighest (List.ne_nil_of_length_pos (Nat.lt_of_lt_of_le (by decide) full))
      by_cases gives : s.classThreshold logical - 1 ≤ top.budget
      · rw [State.charge_evicts missed full oldest more gives]
        have fewer : (before ++ after).Sublist s.watch.entries := oldest.eraseP ▸ List.eraseP_sublist
        have room' : (before ++ after).length < 64 := by
          have few := law.few
          simp only [oldest.split, List.length_append, List.length_cons] at few ⊢
          omega
        have missed' : watchFind (before ++ after) bank row = none :=
          watchFind_none_iff.mpr fun e he => watchFind_none_iff.mp missed e (fewer.mem he)
        exact (law.sublist fewer).append room' missed' lawful
      · rw [State.charge_passes missed full oldest (Nat.not_le.mp gives)]
        exact law
  · rw [State.charge_exhausts_at_once missed (by omega)]
    exact law

theorem State.charge_keeps_watch (law : s.watch.Ok) : (s.charge bank row logical).1.watch.Ok := by
  cases found : watchFind s.watch.entries bank row with
  | none => exact State.charge_keeps_watch_missed law found
  | some e => exact State.charge_keeps_watch_found law found

end ChargeLaws

/-- The entries that heal leave, and the others gain 1 (R97). -/
theorem decayEntries_eq (es : List WatchEntry) : decayEntries es =
    (es.filter fun e => e.budget + 1 < e.threshold).map fun e => { e with budget := e.budget + 1 } :=
  List.filter_map

theorem Watch.Ok.decay {w : Watch} (law : w.Ok) : Watch.Ok { w with entries := decayEntries w.entries } := by
  rw [decayEntries_eq]
  refine (law.sublist List.filter_sublist).map (f := fun e => { e with budget := e.budget + 1 }) (fun _ => ⟨rfl, rfl⟩)
    fun e he => ?_
  obtain ⟨member, below⟩ := List.mem_filter.mp he
  obtain ⟨_, _, bound, errors⟩ := law.budgets e member
  exact ⟨Nat.le_add_left 1 e.budget, of_decide_eq_true below, bound, errors⟩

theorem Watch.Ok.replaceThresholds {w : Watch} (law : w.Ok) {t0 t1 t2 t3 : Nat}
    (range : (1 ≤ t0 ∧ t0 ≤ 255) ∧ (1 ≤ t1 ∧ t1 ≤ 255) ∧ (1 ≤ t2 ∧ t2 ≤ 255) ∧ (1 ≤ t3 ∧ t3 ≤ 255)) (period : Nat)
    (next : Option Nat) : Watch.Ok { w with thresholds := #v[t0, t1, t2, t3], period := period, nextExpiry := next } := by
  obtain ⟨h0, h1, h2, h3⟩ := range
  refine ⟨law.few, law.rows_unique, law.budgets, fun i => ?_⟩
  match i with
  | 0 => exact h0
  | 1 => exact h1
  | 2 => exact h2
  | 3 => exact h3

theorem WatchStep.keeps_watch {a b : Watch} (h : WatchStep a b) (law : a.Ok) : b.Ok := by
  cases h with
  | charge => exact State.charge_keeps_watch law
  | decay _ next => exact law.decay.withTimer next
  | clear => exact law.sublist (List.nil_sublist _)
  | thresholds _ _ _ _ _ period next range => exact law.replaceThresholds range period next
  | reset => exact Watch.ok_reset

/-- Settles O57: a command's changes to the watch block are a chain of changes, each of which keeps the laws. -/
theorem stepKeepsTheWatchListLaws : Obligations.StepKeepsTheWatchListLaws :=
  step_keeps (P := fun s => s.watch.Ok) (fun _ _ law => law) (fun _ _ law => law) fun _ _ _ law h =>
    chain_keeps (P := Watch.Ok) (fun _ _ => WatchStep.keeps_watch) (exec_watch h) law

end Sys2Proof.Machine
end

section
/-! THEOREMS. The error budget: the dispatch of a CORRECTED outcome, and of the exhaustion that its charge may make (R79 to R83, R93 to
R95, R99 to R101). -/

namespace Sys2Proof.Machine

/-! ### The dispatch of an exhaustion (R100) -/

/-- The entry whose destination is a physical row of the spare area (R11). -/
def Remap.entryOfSpareRow (r : Remap) (bank p : Nat) : Option (Nat × RemapEntry) :=
  r.table.find? fun x => x.2.bank == bank && x.2.dest == p - (32768 - r.s)

/-- The offer with cause BUDGET of a row in a region with AUTOSPARE (R100). -/
def State.budgetOffered (s : State) (bank row : Nat) : State :=
  if (s.policy row).autospare then s.offerSparing bank row .budget else s

section Exhaustion

variable {s : State} {bank p : Nat}

section Original

variable (visible : p < 32768 - s.remap.s)

include visible

/-- An original row in use. -/
theorem State.dispatchExhaustion_original (missed : s.remap.find bank p = none) :
    s.dispatchExhaustion bank p = s.budgetOffered bank p := by
  have visible' : p < visibleRows s.remap.s := visible
  simp only [State.dispatchExhaustion, Remap.standing, if_pos visible', missed]
  rfl

/-- An original row with an entry: out of use, or the source of a migration. -/
theorem State.dispatchExhaustion_replaced (found : s.remap.find bank p ≠ none) : s.dispatchExhaustion bank p = s := by
  have visible' : p < visibleRows s.remap.s := visible
  obtain ⟨⟨n, e⟩, found⟩ := Option.ne_none_iff_exists'.mp found
  simp only [State.dispatchExhaustion, Remap.standing, if_pos visible', found]
  cases e.state with
  | active => rfl
  | migrating source => cases source <;> rfl

end Original

section Spare

variable {n : Nat} {e : RemapEntry} (hidden : 32768 - s.remap.s ≤ p)

include hidden

/-- A spare that is no entry's destination: unassigned, or the source of a migration. -/
theorem State.dispatchExhaustion_unused (missed : s.remap.entryOfSpareRow bank p = none) : s.dispatchExhaustion bank p = s := by
  have hidden' : ¬p < visibleRows s.remap.s := Nat.not_lt.mpr hidden
  have missed' : (s.remap.table.find? fun x => x.2.bank == bank && x.2.dest == p - visibleRows s.remap.s) = none := missed
  simp only [State.dispatchExhaustion, Remap.standing, if_neg hidden', missed']
  cases s.remap.table.find? fun x => x.2.bank == bank && x.2.state == .migrating (.spare (p - visibleRows s.remap.s)) <;> rfl

variable (found : s.remap.entryOfSpareRow bank p = some (n, e))

include found

theorem State.standing_of_destination : s.remap.standing bank p = .spareInUse e.row e.isMigrating := by
  have hidden' : ¬p < visibleRows s.remap.s := Nat.not_lt.mpr hidden
  have found' : (s.remap.table.find? fun x => x.2.bank == bank && x.2.dest == p - visibleRows s.remap.s) = some (n, e) := found
  simp only [Remap.standing, if_neg hidden', found']

/-- The home of an ACTIVE entry. -/
theorem State.dispatchExhaustion_home (active : e.state = .active) :
    s.dispatchExhaustion bank p = s.budgetOffered bank e.row := by
  have settled : e.isMigrating = false := by rw [RemapEntry.isMigrating, active]
  rw [State.dispatchExhaustion, State.standing_of_destination hidden found, settled]
  rfl

/-- The destination of a migration. -/
theorem State.dispatchExhaustion_destination (migrating : e.state ≠ .active) :
    s.dispatchExhaustion bank p = s.destinationFailure := by
  have moving : e.isMigrating = true := by
    cases state : e.state with
    | active => exact absurd state migrating
    | migrating source => rw [RemapEntry.isMigrating, state]
  rw [State.dispatchExhaustion, State.standing_of_destination hidden found, moving]

end Spare

end Exhaustion

/-! ### The dispatch of a CORRECTED outcome (R79 to R83, R99) -/

/-- The kind of the record of a CORRECTED outcome (R83). -/
theorem ceKind_eq (o : Origin) : ceKind o = match o with
    | .patrol => .cePatrol
    | .copy => .ceCopy
    | _ => .ceUpstream := by
  cases o <;> rfl

/-- A read's record as the time and the Remap Table stand (R83, R99). -/
def State.readRecord (s : State) (f : ReadFacts) (kind : FaultKind) (detail : Byte) : Offer :=
  { kind := kind, time := s.now, origin := f.origin, injected := f.delivered ≠ f.real, line := some f.line
    phys := some { bank := f.addr.bank, row := f.addr.row, column := some f.addr.column }
    slot := (s.remap.find (bankOf f.line) (rowOf f.line)).map (·.1), detail := detail }

theorem State.offerRead_eq {s t : State} (us : t.us = s.us) (remap : t.remap = s.remap) (f : ReadFacts) (kind : FaultKind)
    (detail : Byte) : t.offerRead f kind detail = t.offerRecord (s.readRecord f kind detail) := by
  simp only [State.offerRead, State.readRecord, State.slotOfLine, State.now, us, remap, ReadFacts.injected_eq, ReadFacts.phys]

section Corrected

variable (s : State) (f : ReadFacts)

/-- A CORRECTED outcome counted and charged to the row that was read (R80, R81). -/
def State.correctedCharge : State × Option Nat := (s.count .ceTotal).charge f.addr.bank f.addr.row (rowOf f.line)

/-- The outcome's own record under CE_LOG (R83). -/
def State.correctedLogged : State :=
  if (s.policy (rowOf f.line)).ceLog then (s.correctedCharge f).1.offerRecord (s.readRecord f (ceKind f.origin) f.detail)
  else (s.correctedCharge f).1

/-- The record of an exhaustion (R99). -/
def State.exhaustionTold (errors : Nat) : State :=
  (s.correctedLogged f).offerRecord (s.readRecord f .budgetExhausted (BitVec.ofNat 8 errors))

theorem State.correctedCharge_frame : (s.correctedCharge f).1.us = s.us ∧ (s.correctedCharge f).1.remap = s.remap
    ∧ (s.correctedCharge f).1.regions = s.regions := by
  simp [State.correctedCharge]

theorem State.correctedLogged_frame : (s.correctedLogged f).us = s.us ∧ (s.correctedLogged f).remap = s.remap
    ∧ (s.correctedLogged f).regions = s.regions := by
  unfold State.correctedLogged
  split
  · simpa using s.correctedCharge_frame f
  · exact s.correctedCharge_frame f

theorem State.exhaustionTold_remap (errors : Nat) : (s.exhaustionTold f errors).remap = s.remap := by
  obtain ⟨-, remap, -⟩ := s.correctedLogged_frame f
  simpa [State.exhaustionTold] using remap

theorem State.exhaustionTold_policy (errors row : Nat) : (s.exhaustionTold f errors).policy row = s.policy row := by
  obtain ⟨-, -, regions⟩ := s.correctedLogged_frame f
  exact State.policy_congr (by simpa [State.exhaustionTold] using regions) row

/-- The model's logging of a charge is the record of the state before it: a charge leaves the time, the table and the regions. -/
theorem State.correctedLogged_eq : s.correctedLogged f =
    if ((s.correctedCharge f).1.policy (rowOf f.line)).ceLog then (s.correctedCharge f).1.offerRead f (ceKind f.origin) f.detail
    else (s.correctedCharge f).1 := by
  obtain ⟨us, remap, regions⟩ := s.correctedCharge_frame f
  rw [State.correctedLogged, State.offerRead_eq us remap, State.policy_congr regions]

variable {s f} (delivered : f.delivered = .corrected)

include delivered

/-- A CORRECTED outcome whose charge exhausts nothing. -/
theorem State.dispatch_corrected (within : (s.correctedCharge f).2 = none) : s.dispatch f = s.correctedLogged f := by
  have within' : ((s.count .ceTotal).charge f.addr.bank f.addr.row (rowOf f.line)).2 = none := within
  simp only [State.dispatch, delivered, State.dispatchCorrected, within']
  exact (s.correctedLogged_eq f).symm

/-- A CORRECTED outcome whose charge exhausts a budget (R99). -/
theorem State.dispatch_exhausted {errors : Nat} (exhausted : (s.correctedCharge f).2 = some errors) :
    s.dispatch f = (s.exhaustionTold f errors).dispatchExhaustion f.addr.bank f.addr.row := by
  have exhausted' : ((s.count .ceTotal).charge f.addr.bank f.addr.row (rowOf f.line)).2 = some errors := exhausted
  obtain ⟨us, remap, -⟩ := s.correctedLogged_frame f
  simp only [State.dispatch, delivered, State.dispatchCorrected, exhausted']
  rw [State.exhaustionTold, ← State.offerRead_eq us remap, State.correctedLogged_eq]
  rfl

end Corrected

/-! ### The error budget (R93 to R95, R99 to R101) -/

/-- A charge of a row with an entry, under the laws of the list (R93). -/
theorem State.charge_of_mem {s : State} (law : s.watch.Ok) {e : WatchEntry} (member : e ∈ s.watch.entries) (logical : Nat) :
    (2 ≤ e.budget → s.charge e.bank e.row logical =
      (s.setWatch (s.watch.entries.map fun x => if x = e then e.charged logical s.now else x), none))
    ∧ (e.budget = 1 → s.charge e.bank e.row logical =
      (s.setWatch (s.watch.entries.filter (· ≠ e)), some (min (e.errors + 1) 255))) := by
  have found : watchFind s.watch.entries e.bank e.row = some e := law.watchFind_mem member
  refine ⟨fun more => ?_, fun last => ?_⟩
  · have own : ∀ x ∈ s.watch.entries, (if x.bank = e.bank ∧ x.row = e.row then x.charged logical s.now else x)
        = if x = e then e.charged logical s.now else x := by
      intro x hx
      by_cases same : x = e
      · rw [same, if_pos ⟨rfl, rfl⟩, if_pos rfl]
      · rw [if_neg fun ⟨bank, row⟩ => same (law.entry_unique hx member bank row), if_neg same]
    rw [State.charge_spends found more, List.map_congr_left own]
  · rw [State.charge_exhausts found last.le, law.eraseP_row member]

/-- Settles O29: the charge by its rules, the dispatch by the charge's result and the standing of the row. -/
theorem chargesSpendTheBudget : Obligations.ChargesSpendTheBudget := by
  refine ⟨?_, fun s bank row logical missed => ⟨fun one => ?_, fun more room => ?_⟩,
    fun s bank row logical before after top missed full split older newer => ?_,
    fun s f delivered => ⟨?_, fun errors exhausted => ?_⟩⟩
  · rintro s _ _ logical e law member rfl rfl
    obtain ⟨spends, exhausts⟩ := State.charge_of_mem law member logical
    exact ⟨fun more => by rw [spends more]; exact ⟨rfl, rfl⟩, fun last => by rw [exhausts last]; exact ⟨rfl, rfl⟩⟩
  · exact State.charge_exhausts_at_once (watchFind_none_iff.mpr missed) (Nat.le_of_eq one)
  · exact State.charge_begins (watchFind_none_iff.mpr missed) more room
  · intro t more
    have oldest : OldestHighest s.watch.entries before top after := ⟨split, older, newer⟩
    exact ⟨State.charge_evicts (watchFind_none_iff.mpr missed) full oldest more,
      State.charge_passes (watchFind_none_iff.mpr missed) full oldest⟩
  · intro within
    rw [State.dispatch_corrected delivered within, State.correctedLogged, ceKind_eq]
    rfl
  · intro told offered spare home
    have told_eq : s.exhaustionTold f errors = told := by
      rw [State.exhaustionTold, State.correctedLogged, ceKind_eq]
      rfl
    have offered_eq (row : Nat) : told.budgetOffered f.addr.bank row = offered row := by
      rw [State.budgetOffered, ← told_eq, State.exhaustionTold_policy, told_eq]
    have remap : told.remap = s.remap := told_eq ▸ s.exhaustionTold_remap f errors
    rw [State.dispatch_exhausted delivered exhausted, told_eq]
    simp only [← offered_eq]
    rw [← remap]
    have home_eq : told.remap.entryOfSpareRow f.addr.bank f.addr.row = home := by
      rw [remap]
      rfl
    rw [← home_eq]
    exact ⟨State.dispatchExhaustion_original, State.dispatchExhaustion_replaced, State.dispatchExhaustion_unused,
      fun _ _ => State.dispatchExhaustion_home, fun _ _ => State.dispatchExhaustion_destination⟩

end Sys2Proof.Machine
end

section
/-! THEOREMS. The expiries of the timers: decay, drain and interval (R91, R97, R109, R110, R140; LOG 2). -/

namespace Sys2Proof.Machine

section Expiries

variable {s : State} {deadline : Nat}

theorem exec_decayExpiry (runs : s.watch.nextExpiry = some deadline) : exec .decayExpiry s = .next
    { s with
      us := max s.us deadline
      watch := { s.watch with
        entries := (s.watch.entries.filter fun e => e.budget + 1 < e.threshold).map fun e => { e with budget := e.budget + 1 }
        nextExpiry := some (deadline + 1000 * s.watch.period) } } := by
  rw [← decayEntries_eq]
  simp only [exec, execDecayExpiry, runs]
  rfl

theorem exec_drainExpiry {d : Drain} (drains : s.media.drain = some d) : exec .drainExpiry s = .next
    { s with
      us := max s.us (d.start + 50), media := { s.media with drain := none }
      mgmt := { s.mgmt with result := .ok, running := none } } := by
  simp only [exec, execDrainExpiry, drains]
  rfl

/-- The interval timer run out and the step due (R109). -/
def State.stepDue (s : State) (deadline : Nat) : State :=
  { s with us := max s.us deadline, patrol := { s.patrol with timer := none, due := true } }

variable (runs : s.patrol.timer = some deadline)

include runs

theorem exec_intervalExpiry_of_step (inStep : s.patrol.state = .reading ∨ s.patrol.state = .writingBack) :
    exec .intervalExpiry s = .next (s.stepDue deadline) := by
  rcases inStep with state | state
  all_goals simp only [exec, execIntervalExpiry, runs, State.advanceTo, State.setPatrol, State.stepDue, state]

theorem exec_intervalExpiry_of_waiting (waits : s.patrol.state = .waiting) :
    exec .intervalExpiry s = exec .patrolReadIssue (s.stepDue deadline) := by
  simp only [exec, execIntervalExpiry, execPatrolReadIssue, runs, State.advanceTo, State.setPatrol, State.stepDue, waits]

end Expiries

/-- Settles O46: each expiry by the timer that runs, the interval's by the state of the patrol. -/
theorem timerExpiriesTakeTheirEffect : Obligations.TimerExpiriesTakeTheirEffect :=
  ⟨fun _ _ => exec_decayExpiry, fun _ _ => exec_drainExpiry, fun _ _ => exec_intervalExpiry_of_step,
    fun _ _ => exec_intervalExpiry_of_waiting⟩

end Sys2Proof.Machine
end

section
/-! THEOREMS. The patrol's step: the choice of its line, the read of a quiet line, the write-back, the end (R105, R107 to R112, R115,
R116; LOG 2, LOG 3, LOG 6, LOG 11, LOG 20). -/

namespace Sys2Proof.Machine

/-! ### The attempt (R108, R110) -/

/-- A step is due and may be attempted: the patrol is WAITING, and the port issues operations (R110, R114, R140). -/
structure State.Attempts (s : State) : Prop where
  waits : s.patrol.state = .waiting
  due : s.patrol.due = true
  port : s.media.failed = false
  settled : s.media.drain = none

section Attempt

variable {s t : State}

theorem State.attempts_iff : s.patrol.state = .waiting ∧ s.patrol.due = true ∧ s.mayIssue = true ↔ s.Attempts := by
  have issues : s.mayIssue = true ↔ s.media.failed = false ∧ s.media.drain = none := by simp [State.mayIssue]
  rw [issues]
  exact ⟨fun ⟨waits, due, port, settled⟩ => ⟨waits, due, port, settled⟩, fun a => ⟨a.waits, a.due, a.port, a.settled⟩⟩

/-- PATROL_READ_ISSUE without a step to attempt changes nothing (LOG 3). -/
theorem exec_patrolReadIssue_of_idle (idle : ¬s.Attempts) : exec .patrolReadIssue s = .next s :=
  congrArg _ (if_neg (mt State.attempts_iff.mp idle))

variable (attempts : s.Attempts)

include attempts

/-- An attempt whose choice ends on a line reads it if it may (R110). -/
theorem exec_patrolReadIssue_of_chosen (chosen : s.choose = (t, true)) :
    exec .patrolReadIssue s = .next (if t.patrolReady then t.issuePatrolRead else t) := by
  show Host.Outcome.next s.patrolAttempt = _
  rw [State.patrolAttempt, if_pos (State.attempts_iff.mpr attempts), chosen]
  exact congrArg _ (if_pos rfl)

/-- A double wrap ends the step's due and restarts the timer (R108). -/
theorem exec_patrolReadIssue_of_none (missed : s.choose = (t, false)) : exec .patrolReadIssue s =
    .next { t with patrol := { t.patrol with due := false, timer := some (t.us + t.patrol.interval) } } := by
  show Host.Outcome.next s.patrolAttempt = _
  rw [State.patrolAttempt, if_pos (State.attempts_iff.mpr attempts), missed]
  exact congrArg _ (if_neg Bool.false_ne_true)

/-- With the cursor on a line that may be chosen, the attempt reads that line or leaves the step due. -/
theorem exec_patrolReadIssue_here (here : s.choosable s.patrol.cursor) :
    exec .patrolReadIssue s = .next (if s.patrolReady then s.issuePatrolRead else s) :=
  exec_patrolReadIssue_of_chosen attempts (State.choose_ahead here le_rfl fun _ le lt => absurd lt (Nat.not_lt.mpr le))

/-- The wrap leaves a due step due. -/
theorem State.Attempts.wrapCursor : s.wrapCursor.Attempts := by
  have kept : s.wrapCursor.patrol = { s.patrol with cursor := 0, sweepReads := 0 } := by
    unfold State.wrapCursor
    split <;> rfl
  exact ⟨kept ▸ attempts.waits, kept ▸ attempts.due, by simpa using attempts.port, by simpa using attempts.settled⟩

variable {line : Nat} (pass : s.choosable line)

include pass

/-- From the cursor up, the attempt is the one with the cursor already on the chosen line. -/
theorem exec_patrolReadIssue_moves (le : s.patrol.cursor ≤ line) (first : ∀ k, s.patrol.cursor ≤ k → k < line → ¬s.choosable k) :
    exec .patrolReadIssue s = exec .patrolReadIssue (s.moveCursor line) := by
  have there : (s.moveCursor line).choose = (s.moveCursor line, true) :=
    State.choose_ahead (s := s.moveCursor line) pass le_rfl fun _ le lt => absurd lt (Nat.not_lt.mpr le)
  have still : (s.moveCursor line).Attempts := ⟨attempts.waits, attempts.due, attempts.port, attempts.settled⟩
  rw [exec_patrolReadIssue_of_chosen attempts (State.choose_ahead pass le first), exec_patrolReadIssue_of_chosen still there]

/-- With no line from the cursor up, the attempt is the one after the wrap, with the cursor on the first line from 0 up. -/
theorem exec_patrolReadIssue_wraps (none_ahead : ∀ k, s.patrol.cursor ≤ k → ¬s.choosable k) (first : ∀ k, k < line → ¬s.choosable k) :
    exec .patrolReadIssue s = exec .patrolReadIssue (s.wrapCursor.moveCursor line) := by
  have wrapped : s.wrapCursor.choosable line := (s.wrapCursor_choosable line).mpr pass
  have before : ∀ k, s.wrapCursor.patrol.cursor ≤ k → k < line → ¬s.wrapCursor.choosable k := fun k _ below =>
    mt (s.wrapCursor_choosable k).mp (first k below)
  rw [← exec_patrolReadIssue_moves attempts.wrapCursor wrapped (Nat.zero_le _) before,
    exec_patrolReadIssue_of_chosen attempts (State.choose_wrapped pass none_ahead first),
    exec_patrolReadIssue_of_chosen attempts.wrapCursor (State.choose_ahead wrapped (Nat.zero_le _) before)]

end Attempt

/-! ### A quiet line (R54, R110) -/

section Quiet

variable (s : State)

/-- A copy is ready while its engine waits for the slot and its line is free of upstream operations (R54). -/
theorem State.copyReady_iff : s.copyReady = true ↔ ∃ c e, s.engine = some c ∧ s.remap.entryAt c.entrySlot = some e
    ∧ c.state = .waitSlot ∧ ∀ i ∈ upstreamSlots, (s.slot i).onLine (lineOf e.row e.bank c.cursor) = false := by
  refine ⟨fun ready => ?_, fun ⟨c, e, engine, entry, waits, quiet⟩ => State.copyReady_of_quiet engine entry waits quiet⟩
  unfold State.copyReady State.cursorLine State.engineEntry at ready
  cases engine : s.engine with
  | none => simp [engine] at ready
  | some c =>
    cases entry : s.remap.entryAt c.entrySlot with
    | none => simp [engine, entry] at ready
    | some e =>
      obtain ⟨waits, quiet⟩ : c.state = .waitSlot ∧ s.upstreamBusy (lineOf e.row e.bank c.cursor) = false := by
        simpa [engine, entry] using ready
      exact ⟨c, e, rfl, entry, waits, by simpa [State.upstreamBusy] using quiet⟩

theorem State.patrolReady_iff : s.patrolReady = true ↔ (s.slot background).work = none ∧ s.copyReady = false
    ∧ (∀ i ∈ upstreamSlots, (s.slot i).onLine s.patrol.cursor = false) ∧ ∀ e ∈ s.ctl.irq, e.line ≠ s.patrol.cursor := by
  simp [State.patrolReady, State.upstreamBusy, and_assoc]

end Quiet

/-! ### The read issued (R110; LOG 11) -/

/-- The work of the patrol read of the cursor line, translated now (R110). -/
def State.patrolReadWork (s : State) : Work :=
  { stage := .issued, owner := .patrol, line := s.patrol.cursor, phase := .read, target := (s.translateRead s.patrol.cursor).1
    target2 := none, leg0 := true, leg1 := false, fallback := none, start := s.us }

/-- The read in the background slot and on the port, before the patrol's own fields follow. -/
def State.patrolPlaced (s : State) : State :=
  (s.given background s.patrolReadWork).placed [.read background (s.slot background).epoch s.patrolReadWork.target]

/-- The state with the patrol read issued, for the counts that it leaves (R110). -/
def State.patrolReading (s : State) (sweepReads freeCount : Nat) : State :=
  { s.patrolPlaced with
    patrol := { s.patrol with
      state := .reading, due := false, cancel := false, sweepReads := sweepReads, timer := some (s.us + s.patrol.interval) }
    freeCount := freeCount }

section Issue

variable {s : State}

/-- Sweep reads raised to `n` are all that the issue takes from their raise. -/
theorem State.issuePatrolRead_eq {n freeCount : Nat} (raised : s.patrolPlaced.raiseSweepReads =
      { s.patrolPlaced with patrol := { s.patrol with sweepReads := n }, freeCount := freeCount }) :
    s.issuePatrolRead = s.patrolReading n freeCount := by
  have placed : s.issuePhase background s.patrolReadWork none = s.patrolPlaced := s.issuePhase_read background s.patrolReadWork
  have issued : s.issuePatrolRead = s.patrolPlaced.raiseSweepReads.setPatrol
      { s.patrolPlaced.raiseSweepReads.patrol with
        state := .reading, due := false, cancel := false
        timer := some (s.patrolPlaced.raiseSweepReads.us + s.patrolPlaced.raiseSweepReads.patrol.interval) } := by
    rw [← placed]
    rfl
  rw [issued, raised]
  rfl

theorem State.issuePatrolRead_within (room : s.patrol.sweepReads < 67108864) :
    s.issuePatrolRead = s.patrolReading (s.patrol.sweepReads + 1) s.freeCount :=
  State.issuePatrolRead_eq (if_pos room)

theorem State.issuePatrolRead_beyond (top : 67108864 ≤ s.patrol.sweepReads) :
    s.issuePatrolRead = s.patrolReading (Config.sweepReadsBeyond s.freeCount).val (s.freeCount + 1) :=
  State.issuePatrolRead_eq (if_neg (Nat.not_lt.mpr top))

end Issue

section QuietLine

variable {s : State} (waits : s.patrol.state = .waiting) (port : s.media.failed = false) (settled : s.media.drain = none)
  (here : s.choosable s.patrol.cursor) (ready : s.patrolReady = true)

include waits port settled here ready

theorem exec_patrolReadIssue_of_quiet (due : s.patrol.due = true) : exec .patrolReadIssue s = .next s.issuePatrolRead := by
  rw [exec_patrolReadIssue_here ⟨waits, due, port, settled⟩ here, if_pos ready]

/-- The expiry makes the step due at the deadline and attempts it there (R109; LOG 2, LOG 6). -/
theorem exec_intervalExpiry_of_quiet {deadline : Nat} (runs : s.patrol.timer = some deadline) :
    exec .intervalExpiry s = .next (s.stepDue deadline).issuePatrolRead := by
  rw [exec_intervalExpiry_of_waiting runs waits]
  exact exec_patrolReadIssue_of_quiet (s := s.stepDue deadline) waits port settled here ready rfl

end QuietLine

/-! ### The wrap and the end of a step (R107, R116) -/

section Ended

variable (s : State)

/-- The wrap counts a sweep and sets SWEEP_DONE where a line was read (R107). -/
theorem State.wrapCursor_eq : s.wrapCursor = { s with
    patrol := { s.patrol with cursor := 0, sweepReads := 0 }
    counters := if 1 ≤ s.patrol.sweepReads then (s.count .sweeps).counters else s.counters
    flags := if 1 ≤ s.patrol.sweepReads then s.flags ||| 0x0100 else s.flags } := by
  unfold State.wrapCursor
  by_cases read : 1 ≤ s.patrol.sweepReads
  · simp only [if_pos read]
    rfl
  · simp only [if_neg read]
    rfl

/-- The state that the patrol enters at the end of its step: STOPPED out of STOPPING, else WAITING (R107). -/
def PatrolState.afterStep : PatrolState → PatrolState
  | .stopping _ => .stopped
  | _ => .waiting

theorem PatrolState.afterStep_eq (state : PatrolState) : state.afterStep = match state with
    | .stopping _ => .stopped
    | _ => .waiting := by
  cases state <;> rfl

variable {s} (inStep : s.patrol.state ≠ .stopped ∧ s.patrol.state ≠ .waiting)

include inStep

theorem State.endPatrolStep_eq : s.endPatrolStep =
    { s.advanceCursor with patrol := { s.advanceCursor.patrol with state := s.patrol.state.afterStep } } := by
  obtain ⟨running, begun⟩ := inStep
  unfold State.endPatrolStep
  cases state : s.patrol.state with
  | stopped => exact absurd state running
  | waiting => exact absurd state begun
  | reading => rfl
  | writingBack => rfl
  | stopping phase => rfl

/-- The step of a line below the last visible one moves the cursor to the next line (R107). -/
theorem State.endPatrolStep_advances (below : s.patrol.cursor + 1 < visibleCapacity s.remap.s) : s.endPatrolStep =
    { s with patrol := { s.patrol with state := s.patrol.state.afterStep, cursor := s.patrol.cursor + 1 } } := by
  rw [State.endPatrolStep_eq inStep, State.advanceCursor, if_neg (Nat.not_le.mpr below)]
  rfl

/-- The step of the last visible line wraps the cursor (R107). -/
theorem State.endPatrolStep_wraps (last : visibleCapacity s.remap.s ≤ s.patrol.cursor + 1) : s.endPatrolStep =
    { s.wrapCursor with patrol := { s.wrapCursor.patrol with state := s.patrol.state.afterStep } } := by
  rw [State.endPatrolStep_eq inStep, State.advanceCursor, if_pos last]

end Ended

/-! ### The completion of a patrol read (R79, R111, R112, R115) -/

theorem writeBackLine_eq (real : ReadOutcome) (data : LineData) : writeBackLine real data = match real with
    | .corrected => some (sealLine data)
    | .uncorrectable => some poisonMarker
    | _ => none := by
  cases real <;> rfl

section Own

variable {d : State} {w : Work} {real : ReadOutcome} {data : LineData}

/-- An outcome that calls for no write-back ends the step (R111). -/
theorem State.ownPatrolRead_ends (sound : writeBackLine real data = none) :
    d.ownPatrolRead w real data = (d.freed background).endPatrolStep.patrolAttempt := by
  rw [State.ownPatrolRead, sound]
  rfl

variable {stored : StoredLine} (repair : writeBackLine real data = some stored)

include repair

/-- The cancel mark withholds the write-back (R111). -/
theorem State.ownPatrolRead_withheld (mark : d.patrol.cancel = true) :
    d.ownPatrolRead w real data = ((d.count .scrubCancelled).freed background).endPatrolStep.patrolAttempt := by
  rw [State.ownPatrolRead, repair]
  exact if_pos mark

/-- Without the mark the write-back is issued to the target of its read (R112). -/
theorem State.ownPatrolRead_writes (clear : d.patrol.cancel = false) : d.ownPatrolRead w real data =
    (State.given
      { d with patrol := { d.patrol with state := d.patrol.state.toWriteBack }, counters := (d.count .scrubWritebacks).counters }
      background
      { w with stage := .issuedSecond, phase := .write, target2 := none, leg0 := true, leg1 := false, start := d.us }).placed
      [.write background (d.slot background).epoch false w.target stored] := by
  rw [State.ownPatrolRead, repair]
  dsimp only
  rw [if_neg (Bool.eq_false_iff.mp clear), State.issuePhase_write]
  rfl

end Own

/-- The state after a patrol read has been dispatched (R79). -/
def State.patrolDispatched (s : State) (w : Work) (line : StoredLine) : State := s.dispatched w line .patrol false 0

section Dispatched

variable (s : State) (w : Work) (line : StoredLine)

@[simp] theorem State.patrolDispatched_frame :
    (s.patrolDispatched w line).us = s.us ∧ (s.patrolDispatched w line).patrol = s.patrol := by
  simp [State.patrolDispatched, State.dispatched]

theorem State.patrolDispatched_epoch : ((s.patrolDispatched w line).slot background).epoch = (s.slot background).epoch :=
  (State.Steady.dispatched s w line .patrol false 0).epochs background

/-- The write-back that follows a dispatched patrol read, by what the dispatch leaves of the state before it (R112). -/
theorem State.patrolDispatched_writes {real : ReadOutcome} {data : LineData} {stored : StoredLine}
    (repair : writeBackLine real data = some stored) (clear : s.patrol.cancel = false) :
    (s.patrolDispatched w line).ownPatrolRead w real data = (State.given
      { s.patrolDispatched w line with
        patrol := { s.patrol with state := s.patrol.state.toWriteBack }
        counters := ((s.patrolDispatched w line).count .scrubWritebacks).counters }
      background
      { w with stage := .issuedSecond, phase := .write, target2 := none, leg0 := true, leg1 := false, start := s.us }).placed
      [.write background (s.slot background).epoch false w.target stored] := by
  obtain ⟨us, patrol⟩ := s.patrolDispatched_frame w line
  rw [← s.patrolDispatched_epoch w line, ← us]
  rw [← patrol] at clear ⊢
  exact State.ownPatrolRead_writes repair clear

end Dispatched

section PatrolRead

variable {s : State} {w : Work} {leg : Bool} (line : StoredLine) (stage : w.stage ≠ .orphan) (owner : w.owner = .patrol)

include stage owner

/-- An accepted patrol read is dispatched; then the patrol's state decides (R111, R115, R130). -/
theorem State.acceptRead_patrol : s.acceptRead background w line =
    match s.patrol.state with
    | .reading => (s.patrolDispatched w line).ownPatrolRead w (classify line).1 (classify line).2
    | .stopping _ => (s.patrolDispatched w line).ownPatrolRead w (classify line).1 (classify line).2
    | _ => (s.patrolDispatched w line).freed background := by
  have origin : w.origin = .patrol := by rw [Work.origin, owner]
  have accepted : s.acceptRead background w line = (s.clearTimeouts.countMatches .patrol w.line).patrolRead w (classify line).1
      (s.outcomeOf .patrol w line) (classify line).2 := by
    simp only [State.acceptRead, if_neg stage, owner, origin]
    rfl
  have dispatched : (s.clearTimeouts.countMatches .patrol w.line).dispatch
      { origin := .patrol, line := w.line, addr := w.target, real := (classify line).1, delivered := s.outcomeOf .patrol w line
        held := false, detail := 0 } = s.patrolDispatched w line := rfl
  simp only [accepted, State.patrolRead, dispatched, State.patrolDispatched_frame]
  cases s.patrol.state <;> rfl

/-- A patrol that a FAILED port has stopped frees the slot alone (R115). -/
theorem exec_readCompletion_of_stopped (work : (s.slot background).work = some w) (phase : w.phase ≠ .write)
    (stopped : s.patrol.state = .stopped) : exec (.readCompletion background (s.slot background).epoch leg line) s =
      .next ((s.patrolDispatched w line).freed background) := by
  rw [execReadCompletion_accepted leg line work phase, State.acceptRead_patrol line stage owner, stopped]

/-- In READING and STOPPING the real outcome and the mark decide (R111). -/
theorem exec_readCompletion_of_patrol (work : (s.slot background).work = some w) (phase : w.phase ≠ .write)
    (inStep : s.patrol.state = .reading ∨ ∃ step, s.patrol.state = .stopping step) :
    exec (.readCompletion background (s.slot background).epoch leg line) s =
      .next ((s.patrolDispatched w line).ownPatrolRead w (classify line).1 (classify line).2) := by
  rw [execReadCompletion_accepted leg line work phase, State.acceptRead_patrol line stage owner]
  obtain state | ⟨step, state⟩ := inStep
  all_goals rw [state]

end PatrolRead

/-! ### The completion of a write-back (R112, R115) -/

section Written

variable {t : State}

theorem State.patrolWritten_of_step (inStep : t.patrol.state = .writingBack ∨ ∃ step, t.patrol.state = .stopping step) :
    t.patrolWritten = t.finishPatrolStep := by
  obtain state | ⟨step, state⟩ := inStep
  all_goals simp only [State.patrolWritten, state]

theorem State.patrolWritten_of_stopped (stopped : t.patrol.state = .stopped) : t.patrolWritten = t.freed background := by
  simp only [State.patrolWritten, stopped]
  rfl

end Written

section WriteBack

variable {s : State} {w : Work} (work : (s.slot background).work = some w) (owner : w.owner = .patrol) (stage : w.stage ≠ .orphan)
  (phase : w.phase = .write) (leg0 : w.leg0 = true) (leg1 : w.leg1 = false)

include work owner stage phase leg0 leg1

theorem exec_writeCompletion_of_patrol :
    exec (.writeCompletion background (s.slot background).epoch false) s = .next s.clearTimeouts.patrolWritten := by
  rw [exec_writeCompletion_of_accepted work phase (by simpa using leg0), State.acceptWrite_eq, if_neg (by simp [leg1])]
  simp only [State.writeEnded, Work.marked_stage, Work.marked_owner, stage, owner, if_false]

/-- The completion of a write-back ends the step (R112). -/
theorem exec_writeCompletion_of_step (inStep : s.patrol.state = .writingBack ∨ ∃ step, s.patrol.state = .stopping step) :
    exec (.writeCompletion background (s.slot background).epoch false) s =
      exec .patrolReadIssue (s.clearTimeouts.freed background).endPatrolStep := by
  rw [exec_writeCompletion_of_patrol work owner stage phase leg0 leg1, State.patrolWritten_of_step (t := s.clearTimeouts) inStep]
  rfl

/-- A patrol that a FAILED port has stopped has no step to end (R115). -/
theorem exec_writeCompletion_of_stopped (stopped : s.patrol.state = .stopped) :
    exec (.writeCompletion background (s.slot background).epoch false) s = .next (s.clearTimeouts.freed background) := by
  rw [exec_writeCompletion_of_patrol work owner stage phase leg0 leg1, State.patrolWritten_of_stopped (t := s.clearTimeouts) stopped]

end WriteBack

/-! ### The patrol's step -/

/-- The state after the write-back of a step that is READING or STOPPING (R112). -/
theorem PatrolState.toWriteBack_eq {state writing : PatrolState} (enters : (state = .reading ∧ writing = .writingBack)
    ∨ ((∃ phase, state = .stopping phase) ∧ writing = .stopping .writeBack)) :
    (state = .reading ∨ ∃ phase, state = .stopping phase) ∧ state.toWriteBack = writing := by
  obtain ⟨rfl, rfl⟩ | ⟨⟨phase, rfl⟩, rfl⟩ := enters
  · exact ⟨.inl rfl, rfl⟩
  · exact ⟨.inr ⟨phase, rfl⟩, rfl⟩

/-- Settles O48: the attempt by where its choice ends and whether the line is quiet, the step's end by the cursor, a completion by
the patrol's state, the real outcome and the mark. -/
theorem patrolReadIssuesForAQuietLine : Obligations.PatrolReadIssuesForAQuietLine := by
  refine ⟨fun s waits port settled visible scrubbed still free noCopy quiet alone => ?_, fun s idle => ?_,
    fun s waits due port settled => ?_, State.copyReady_iff, fun s running begun => ?_, fun s w leg line work owner stage phase => ?_,
    fun s w work owner stage phase leg0 leg1 => ?_⟩
  · intro target reading
    have ready : s.patrolReady = true := s.patrolReady_iff.mpr ⟨free, noCopy, quiet, alone⟩
    have here : s.choosable s.patrol.cursor := ⟨visible, scrubbed, still⟩
    have issues := exec_patrolReadIssue_of_quiet waits port settled here ready
    have expires {deadline : Nat} := exec_intervalExpiry_of_quiet waits port settled here ready (deadline := deadline)
    refine ⟨fun room => ⟨fun due => ?_, fun deadline runs => ?_⟩,
      fun top => ⟨_, Fin.is_le (Config.sweepReadsBeyond s.freeCount), fun due => ?_, fun deadline runs => ?_⟩⟩
    · exact (issues due).trans (congrArg _ (State.issuePatrolRead_within room))
    · exact (expires runs).trans (congrArg _ (State.issuePatrolRead_within (s := s.stepDue deadline) room))
    · exact (issues due).trans (congrArg _ (State.issuePatrolRead_beyond top))
    · exact (expires runs).trans (congrArg _ (State.issuePatrolRead_beyond (s := s.stepDue deadline) top))
  · refine exec_patrolReadIssue_of_idle fun attempts => ?_
    obtain ⟨waits, due, port, settled⟩ := attempts
    simp [waits, due, port, settled] at idle
  · have attempts : s.Attempts := ⟨waits, due, port, settled⟩
    intro passes moved wrapped
    have wraps : s.wrapCursor = wrapped := s.wrapCursor_eq
    refine ⟨fun line pass le first => exec_patrolReadIssue_moves attempts pass le first, fun line pass ahead first => ?_,
      fun missed => ?_, fun pass busy => ?_⟩
    · rw [← wraps]
      exact exec_patrolReadIssue_wraps attempts pass ahead first
    · rw [exec_patrolReadIssue_of_none attempts (State.choose_none missed), wraps]
    · have taken : ¬s.patrolReady = true := by
        rw [State.patrolReady_iff]
        rintro ⟨free, noCopy, quiet, alone⟩
        rcases busy with held | copy | ⟨i, member, hit⟩ | ⟨e, queued, same⟩
        · exact held free
        · exact Bool.false_ne_true (noCopy.symm.trans copy)
        · exact Bool.false_ne_true ((quiet i member).symm.trans hit)
        · exact alone e queued same
      rw [exec_patrolReadIssue_here attempts pass, if_neg taken]
  · intro after
    have ended : s.patrol.state.afterStep = after := s.patrol.state.afterStep_eq
    rw [← ended]
    refine ⟨State.endPatrolStep_advances ⟨running, begun⟩, fun last => ?_⟩
    rw [State.endPatrolStep_wraps ⟨running, begun⟩ last, s.wrapCursor_eq]
  · intro d repair
    have decided : writeBackLine (classify line).1 (classify line).2 = repair := writeBackLine_eq _ _
    refine ⟨exec_readCompletion_of_stopped line stage owner work phase, fun writing enters => ?_⟩
    obtain ⟨inStep, entered⟩ := PatrolState.toWriteBack_eq enters
    have mark : (s.patrolDispatched w line).patrol.cancel = s.patrol.cancel := by rw [(s.patrolDispatched_frame w line).2]
    rw [exec_readCompletion_of_patrol line stage owner work phase inStep]
    refine ⟨fun sound => ?_, fun called withheld => ?_, fun stored called clear => ?_⟩
    · rw [State.ownPatrolRead_ends (decided.trans sound)]
      rfl
    · obtain ⟨stored, called⟩ := Option.ne_none_iff_exists'.mp called
      rw [State.ownPatrolRead_withheld (decided.trans called) (mark.trans withheld)]
      rfl
    · rw [s.patrolDispatched_writes w line (decided.trans called) clear, entered]
      rfl
  · exact ⟨exec_writeCompletion_of_stopped work owner stage phase leg0 leg1,
      exec_writeCompletion_of_step work owner stage phase leg0 leg1⟩

end Sys2Proof.Machine
end

section
/-! THEOREMS. PATROL_CONTROL: START, STOP, SET_INTERVAL and SET_CURSOR (R7, R116, R117; LOG 4, LOG 16). -/

namespace Sys2Proof.Machine

/-! ### The operation that PARAM[0] names (R116, R178) -/

theorem byteOf_paramByte_toNat (p : Params) (i : Nat) : (byteOf (paramByte p i)).toNat = paramByte p i := by
  simp [byteOf, paramByte]

section Operation

variable {s : State} {p : Params} (taken : s.takes codePatrolControl p)

include taken

/-- A patrol row that finds an unknown operation completes the command with BAD_PARAM (LOG 16). -/
theorem runPatrol_of_unknown {op : Byte} (known : namesPatrolOperation op = true) (take : Params → State → State)
    (unknown : paramByte p 0 = 0 ∨ 4 < paramByte p 0) : s.runPatrol op take = s.finished codePatrolControl .badParam := by
  have unnamed : ¬namesPatrolOperation (byteOf (paramByte p 0)) = true := by
    simp only [namesPatrolOperation, byteOf_paramByte_toNat, Bool.and_eq_true, decide_eq_true_eq]
    omega
  have other : byteOf (paramByte p 0) ≠ op := fun same => unnamed (same ▸ known)
  rw [State.runPatrol, runCommand_of_takes _ taken, if_neg other, if_neg unnamed, busy_complete]

theorem execStart_of_takes (operation : paramByte p 0 = 1) : exec .start s = .next (s.busy codePatrolControl p).startPatrol :=
  congrArg _ (runPatrol_of_takes _ taken (congrArg byteOf operation))

theorem execStop_of_takes (operation : paramByte p 0 = 2) : exec .stop s = .next (s.busy codePatrolControl p).stopCommand :=
  congrArg _ (runPatrol_of_takes _ taken (congrArg byteOf operation))

theorem execSetInterval_of_takes (operation : paramByte p 0 = 3) : exec .setInterval s =
    .next ((s.busy codePatrolControl p).setInterval (paramByte p 1 + 256 * paramByte p 2)) :=
  congrArg _ (runPatrol_of_takes _ taken (congrArg byteOf operation))

theorem execSetCursor_of_takes (operation : paramByte p 0 = 4) : exec .setCursor s =
    .next ((s.busy codePatrolControl p).setCursor
      (paramByte p 1 + 256 * paramByte p 2 + 65536 * (paramByte p 3 + 256 * paramByte p 4))) :=
  congrArg _ (runPatrol_of_takes _ taken (congrArg byteOf operation))

end Operation

/-! ### START and STOP by the state of the patrol (R116) -/

section StartStop

variable {t : State}

theorem State.startPatrol_stopped (state : t.patrol.state = .stopped) : t.startPatrol =
    if t.media.failed then t.complete .wrongState
    else State.complete
      { t with patrol := { t.patrol with state := .waiting, due := false, timer := some (t.us + t.patrol.interval) } } .ok := by
  simp only [State.startPatrol, state]
  rfl

theorem State.startPatrol_running (state : t.patrol.state = .waiting ∨ t.patrol.state = .reading ∨ t.patrol.state = .writingBack) :
    t.startPatrol = t.complete .ok := by
  rcases state with state | state | state
  all_goals simp only [State.startPatrol, state]

theorem State.startPatrol_stopping {phase : StepPhase} (state : t.patrol.state = .stopping phase) :
    t.startPatrol = t.complete .wrongState := by
  simp only [State.startPatrol, state]

theorem State.stopCommand_idle (state : t.patrol.state = .stopped ∨ ∃ phase, t.patrol.state = .stopping phase) :
    t.stopCommand = t.complete .ok := by
  obtain state | ⟨phase, state⟩ := state
  all_goals simp only [State.stopCommand, state]

/-- The state that STOP makes a running patrol enter: STOPPED out of WAITING, else STOPPING with the phase in flight (R116). -/
inductive PatrolState.StopsTo : PatrolState → PatrolState → Prop
  | waiting : StopsTo .waiting .stopped
  | reading : StopsTo .reading (.stopping .read)
  | writingBack : StopsTo .writingBack (.stopping .writeBack)

theorem State.stopCommand_running {next : PatrolState} (stops : t.patrol.state.StopsTo next) : t.stopCommand =
    State.complete { t with patrol := { t.patrol with state := next, due := false, timer := none } } .ok := by
  unfold State.stopCommand
  generalize t.patrol.state = state at stops ⊢
  cases stops <;> rfl

end StartStop

/-! ### The values of SET_INTERVAL and SET_CURSOR (R7, R117) -/

section Values

variable (t : State) {interval line : Nat}

theorem State.setInterval_zero (zero : interval = 0) : t.setInterval interval = t.complete .badParam :=
  if_pos zero

theorem State.setInterval_positive (positive : interval ≠ 0) :
    t.setInterval interval = State.complete { t with patrol := { t.patrol with interval := interval } } .ok :=
  if_neg positive

theorem State.setCursor_outside (outside : visibleCapacity t.remap.s ≤ line) : t.setCursor line = t.complete .badParam :=
  if_pos (decide_eq_false (Nat.not_lt.mpr outside))

theorem State.setCursor_visible (visible : line < visibleCapacity t.remap.s) : t.setCursor line =
    if t.patrol.state = .stopped then
      State.complete { t with patrol := { t.patrol with cursor := line, sweepReads := 0 } } .ok
    else t.complete .wrongState :=
  if_neg fun outside => of_decide_eq_false outside visible

end Values

/-! ### PATROL_CONTROL (R116, R117) -/

section PatrolControl

variable {s : State} {p : Params} (taken : s.takes codePatrolControl p)

include taken

theorem exec_start (operation : paramByte p 0 = 1) :
    (s.patrol.state = .stopped → s.media.failed = false → exec .start s = .next (State.finished
      { s with patrol := { s.patrol with state := .waiting, due := false, timer := some (s.us + s.patrol.interval) } }
      codePatrolControl .ok))
    ∧ (s.patrol.state = .stopped → s.media.failed = true → exec .start s = .next (s.finished codePatrolControl .wrongState))
    ∧ (s.patrol.state = .waiting ∨ s.patrol.state = .reading ∨ s.patrol.state = .writingBack →
      exec .start s = .next (s.finished codePatrolControl .ok))
    ∧ ∀ phase, s.patrol.state = .stopping phase → exec .start s = .next (s.finished codePatrolControl .wrongState) := by
  rw [execStart_of_takes taken operation]
  refine ⟨fun state port => ?_, fun state port => ?_, fun state => ?_, fun phase state => ?_⟩
  · rw [State.startPatrol_stopped (t := s.busy codePatrolControl p) state]
    exact congrArg _ (if_neg (Bool.eq_false_iff.mp port))
  · rw [State.startPatrol_stopped (t := s.busy codePatrolControl p) state]
    exact congrArg _ (if_pos port)
  · rw [State.startPatrol_running (t := s.busy codePatrolControl p) state, busy_complete]
  · rw [State.startPatrol_stopping (t := s.busy codePatrolControl p) state, busy_complete]

theorem exec_stop_of_idle (operation : paramByte p 0 = 2)
    (state : s.patrol.state = .stopped ∨ ∃ phase, s.patrol.state = .stopping phase) :
    exec .stop s = .next (s.finished codePatrolControl .ok) := by
  rw [execStop_of_takes taken operation, State.stopCommand_idle (t := s.busy codePatrolControl p) state, busy_complete]

theorem exec_stop_of_running (operation : paramByte p 0 = 2) {next : PatrolState} (stops : s.patrol.state.StopsTo next) :
    exec .stop s = .next (State.finished
      { s with patrol := { s.patrol with state := next, due := false, timer := none } } codePatrolControl .ok) := by
  rw [execStop_of_takes taken operation, State.stopCommand_running (t := s.busy codePatrolControl p) stops]
  rfl

end PatrolControl

/-- Settles O47: START and STOP by the state of the patrol, SET_INTERVAL and SET_CURSOR by the value, an unknown operation by its
code. -/
theorem patrolControlOperations : Obligations.PatrolControlOperations := by
  refine ⟨fun s p taken => ?_, fun s p taken => ?_⟩
  · intro ended
    refine ⟨exec_start taken, fun operation => ⟨exec_stop_of_idle taken operation, fun state => ?_, fun state => ?_, fun state => ?_⟩⟩
    · exact exec_stop_of_running taken operation (state ▸ .waiting)
    · exact exec_stop_of_running taken operation (state ▸ .reading)
    · exact exec_stop_of_running taken operation (state ▸ .writingBack)
  · intro interval line capacity
    refine ⟨fun operation => ?_, fun operation => ?_, fun unknown => congrArg _ (runPatrol_of_unknown taken rfl _ unknown)⟩
    · rw [execSetInterval_of_takes taken operation]
      refine ⟨fun zero => ?_, fun positive => ?_⟩
      · rw [State.setInterval_zero _ zero, busy_complete]
      · rw [State.setInterval_positive _ positive]
        rfl
    · rw [execSetCursor_of_takes taken operation]
      refine ⟨fun outside => ?_, fun visible running => ?_, fun visible stopped => ?_⟩
      · rw [State.setCursor_outside (s.busy codePatrolControl p) outside, busy_complete]
      · rw [State.setCursor_visible (s.busy codePatrolControl p) visible]
        exact congrArg _ (if_neg running)
      · rw [State.setCursor_visible (s.busy codePatrolControl p) visible]
        exact congrArg _ (if_pos stopped)

end Sys2Proof.Machine
end

section
/-! THEOREMS. The delivered outcome from the real outcome and the fired slots' (R122). -/

namespace Sys2Proof.Machine

section Deliver

variable (real : ReadOutcome) {fired : List InjectOutcome}

@[simp] theorem deliver_nil : deliver real [] = real := if_pos rfl

/-- The column of R122's table for fired outcomes that include UNCORRECTABLE. -/
theorem deliver_of_uncorrectable_mem (worst : .uncorrectable ∈ fired) : deliver real fired = .uncorrectable :=
  (if_neg (List.ne_nil_of_mem worst)).trans (if_pos (List.contains_iff_mem.mpr worst))

/-- The column of R122's table for CORRECTED alone: a real POISON is replaced, a real UNCORRECTABLE is not. -/
theorem deliver_of_uncorrectable_notMem (some_ : fired ≠ []) (mild : .uncorrectable ∉ fired) :
    deliver real fired = if real = .uncorrectable then .uncorrectable else .corrected := by
  refine (if_neg some_).trans ((if_neg (mt List.contains_iff_mem.mp mild)).trans ?_)
  cases real <;> rfl

end Deliver

/-- Settles O27: no fired slot, then the two columns of R122's table. -/
theorem firedSlotsWorsenTheDeliveredOutcome : Obligations.FiredSlotsWorsenTheDeliveredOutcome := by
  refine fun real fired => ⟨fun none_ => ?_, fun _ worst => deliver_of_uncorrectable_mem real worst, fun some_ mild => ?_⟩
  · rw [none_, deliver_nil]
  · rw [deliver_of_uncorrectable_notMem real some_ mild]
    cases real <;> rfl

end Sys2Proof.Machine
end

section
/-! THEOREMS. Late completions and the drain of a warm reset that they answer (R130, R140, R177; LOG 22). -/

namespace Sys2Proof.Machine

section LateCompletion

variable {s : State} {i : SlotNo} {epoch : Epoch} {leg : Bool}

/-- A read completion that fails a test of its slot is late (R130). -/
theorem exec_readCompletion_of_late (line : StoredLine)
    (fails : ∀ w, (s.slot i).work = some w → epoch ≠ (s.slot i).epoch ∨ w.phase = .write) :
    exec (.readCompletion i epoch leg line) s = .next (s.lateCompletion i epoch leg) := by
  show execReadCompletion i epoch leg line s = _
  unfold execReadCompletion
  cases work : (s.slot i).work with
  | none => rfl
  | some w => exact if_neg fun ⟨current, reads⟩ => (fails w work).elim (· current) reads

/-- A write completion that fails a test of its slot is late (R130). -/
theorem exec_writeCompletion_of_late (fails : ∀ w, (s.slot i).work = some w →
      epoch ≠ (s.slot i).epoch ∨ w.phase ≠ .write ∨ (if leg then w.leg1 else w.leg0) = false) :
    exec (.writeCompletion i epoch leg) s = .next (s.lateCompletion i epoch leg) := by
  show execWriteCompletion i epoch leg s = _
  unfold execWriteCompletion
  cases work : (s.slot i).work with
  | none => rfl
  | some w =>
    refine if_neg fun ⟨current, writes, outstanding⟩ => ?_
    obtain stale | reads | done := fails w work
    · exact stale current
    · exact reads writes
    · exact Bool.false_ne_true (done.symm.trans outstanding)

/-- With no drain a late completion is counted alone (R130). -/
theorem State.lateCompletion_of_settled (settled : s.media.drain = none) :
    s.lateCompletion i epoch leg = s.count .lateCompletions := by
  simp only [State.lateCompletion, State.count, settled]

/-- While a warm reset drains, the leg answered leaves the record, and the last one ends the drain (R140, R177). -/
theorem State.lateCompletion_of_drain {d : Drain} (drains : s.media.drain = some d) : s.lateCompletion i epoch leg =
    if d.legs.erase { slot := i, epoch := epoch, leg := leg } = [] then (s.count .lateCompletions).finishDrain
    else { s.count .lateCompletions with media := { s.media with
      drain := some { d with legs := d.legs.erase { slot := i, epoch := epoch, leg := leg } } } } := by
  simp only [State.lateCompletion, State.count, drains]

end LateCompletion

/-- Settles O30: every completion that fails a test of its slot is late, and what it leaves follows the drain. -/
theorem lateCompletionsAreDiscarded : Obligations.LateCompletionsAreDiscarded := by
  refine ⟨fun s i epoch leg line settled => ?_, fun s i epoch leg line d drains => ?_⟩
  · rw [← State.lateCompletion_of_settled settled]
    exact ⟨exec_readCompletion_of_late line, exec_writeCompletion_of_late⟩
  · intro left counted discarded
    have leaves : s.lateCompletion i epoch leg = discarded := State.lateCompletion_of_drain drains
    rw [← leaves]
    exact ⟨exec_readCompletion_of_late line, exec_writeCompletion_of_late⟩

end Sys2Proof.Machine
end

section
/-! THEOREMS. SLOT_GRANT: the slot that it takes, the first phase that it issues, the states that grant nothing (R9, R12, R74, R85, R129,
R132, R134, R139, R140, R150; LOG 3, LOG 5). -/

namespace Sys2Proof.Machine

/-! ### The lowest FREE upstream slot (R132) -/

theorem upstreamSlots_toNat : ∀ k : Fin upstreamSlots.length, upstreamSlots[k].toNat = k.val := by decide

theorem State.freeUpstream_some {s : State} {i : SlotNo} (free : s.freeUpstream = some i) : i ≠ background
    ∧ (s.slot i).work = none ∧ ∀ j : SlotNo, j.toNat < i.toNat → (s.slot j).work ≠ none := by
  obtain ⟨unused, k, hk, rfl, lower⟩ := List.find?_eq_some_iff_getElem.mp free
  refine ⟨(mem_upstreamSlots _).mp (List.getElem_mem hk), Option.isNone_iff_eq_none.mp unused, fun j below => ?_⟩
  have place : upstreamSlots[k].toNat = k := upstreamSlots_toNat ⟨k, hk⟩
  rw [place] at below
  have lowerSlot : upstreamSlots[j.toNat] = j := BitVec.eq_of_toNat_eq (upstreamSlots_toNat ⟨j.toNat, below.trans hk⟩)
  have busy := lower j.toNat below
  rw [lowerSlot] at busy
  exact Option.ne_none_iff_isSome.mpr (by simpa using busy)

theorem State.freeUpstream_eq_none {s : State} :
    s.freeUpstream = none ↔ ∀ i : SlotNo, i ≠ background → (s.slot i).work ≠ none := by
  simp [State.freeUpstream, List.find?_eq_none, mem_upstreamSlots, Option.ne_none_iff_isSome]

/-! ### The first phase (R85, R129, R134) -/

/-- The requests whose first phase is a read: a LINE_READ, and a LINE_MERGE of some bytes alone (R85). -/
inductive RequestKind.ReadsFirst : RequestKind → Prop
  | read : ReadsFirst .read
  | merge {data : LineData} {mask : ByteMask} (partly : mask ≠ BitVec.allOnes 64) : ReadsFirst (.merge data mask)

/-- The requests whose first phase writes this line: a LINE_WRITE, and a LINE_MERGE of all bytes (R85). -/
inductive RequestKind.WritesFirst (data : LineData) : RequestKind → Prop
  | write : WritesFirst data (.write data)
  | merge : WritesFirst data (.merge data (BitVec.allOnes 64))

/-- The read placed on the port by an upstream slot's read phase (R127). -/
def State.readOps (s : State) (i : SlotNo) (line : Nat) : List MediaOp := [.read i (s.slot i).epoch (s.translateRead line).1]

/-- The write phase of an upstream slot's work, translated now, with the second target of a dual write (R8, R134). -/
def State.writeWork (s : State) (tag : Tag) (line : Nat) : Work :=
  { stage := .issued, owner := .upstream tag true, line := line, phase := .write, target := (s.translateWrite line).1
    target2 := (s.translateWrite line).2, leg0 := true, leg1 := (s.translateWrite line).2.isSome, fallback := none, start := s.us }

/-- The legs placed on the port by an upstream slot's write phase: the line sealed, with one epoch (R74, R134). -/
def State.writeOps (s : State) (i : SlotNo) (line : Nat) (data : LineData) : List MediaOp :=
  .write i (s.slot i).epoch false (s.translateWrite line).1 (sealLine data) :: match (s.translateWrite line).2 with
    | none => []
    | some a => [.write i (s.slot i).epoch true a (sealLine data)]

/-- The entry ISSUED, the slot given its work, the operations placed (R132). -/
def State.granted (s : State) (i : SlotNo) (e : IrqEntry) (w : Work) (ops : List MediaOp) : State :=
  ((s.setEntryState e.tag (.issued i)).given i w).placed ops

section FirstPhase

variable (s : State) (i : SlotNo) {e : IrqEntry}

theorem State.grant_reads (first : e.kind.ReadsFirst) :
    s.grant i e = s.granted i e (s.readWork e.tag e.line) (s.readOps i e.line) := by
  have issues : s.issueFirst i e = s.issuePhase i (s.readWork e.tag e.line) none := by
    unfold State.issueFirst
    generalize e.kind = kind at first ⊢
    cases first with
    | read => rfl
    | merge partly => exact if_neg partly
  rw [State.grant, issues, State.issuePhase_read]
  rfl

theorem State.grant_writes {data : LineData} (first : e.kind.WritesFirst data) :
    s.grant i e = s.granted i e (s.writeWork e.tag e.line) (s.writeOps i e.line data) := by
  have issues : s.issueFirst i e = s.issuePhase i (s.writeWork e.tag e.line) (some (sealLine data)) := by
    unfold State.issueFirst
    generalize e.kind = kind at first ⊢
    cases first with
    | write => rfl
    | merge => exact if_pos rfl
  rw [State.grant, issues, State.issuePhase_write]
  rfl

end FirstPhase

/-! ### The attempt (R85, R132, R150) -/

section Attempt

variable {s : State}

/-- With no all-zero merge in the queue and the gate OPEN, a grant attempt answers nothing (R85). -/
theorem State.answerZeroMerges_of_none (gate : s.ctl.gate = .opened) (port : s.media.failed = false) (settled : s.media.drain = none)
    (takesSlots : ∀ x ∈ s.ctl.irq, x.kind.isZeroMerge = false) : s.answerZeroMerges = s := by
  have issues : s.queueMayIssue = true := s.queueMayIssue_iff.mpr ⟨gate ▸ nofun, port, settled⟩
  obtain ⟨stay, none_gone⟩ := staying_none s.mergesNow s.ctl.irq fun x hx => by simp [State.mergesNow, takesSlots x hx]
  rw [State.answerZeroMerges_eq issues, stay, none_gone]
  refine (State.closeIfEmpty_open (.inl (gate ▸ nofun))).trans ?_
  simp

theorem exec_slotGrant_grants {i : SlotNo} {e : IrqEntry} (issues : s.answerZeroMerges.queueMayIssue = true)
    (free : s.answerZeroMerges.freeUpstream = some i)
    (chosen : s.answerZeroMerges.oldestEligible [] s.answerZeroMerges.ctl.irq = some e) :
    exec .slotGrant s = .next (s.answerZeroMerges.grant i e) := by
  simp only [exec, execSlotGrant, issues, free, chosen, if_true]

/-- With no all-zero merge in the queue and the gate OPEN, a grant attempt is the grant alone (R132). -/
theorem exec_slotGrant_of_no_zeroMerge {i : SlotNo} {e : IrqEntry} (gate : s.ctl.gate = .opened) (port : s.media.failed = false)
    (settled : s.media.drain = none) (takesSlots : ∀ x ∈ s.ctl.irq, x.kind.isZeroMerge = false) (free : s.freeUpstream = some i)
    (chosen : s.oldestEligible [] s.ctl.irq = some e) : exec .slotGrant s = .next (s.grant i e) := by
  have same := State.answerZeroMerges_of_none gate port settled takesSlots
  have issues : s.queueMayIssue = true := s.queueMayIssue_iff.mpr ⟨gate ▸ nofun, port, settled⟩
  rw [exec_slotGrant_grants (same.symm ▸ issues) (same.symm ▸ free) (same.symm ▸ chosen), same]

theorem exec_slotGrant_grants_nothing (lacks : s.answerZeroMerges.queueMayIssue = false ∨ s.answerZeroMerges.freeUpstream = none
      ∨ s.answerZeroMerges.oldestEligible [] s.answerZeroMerges.ctl.irq = none) :
    exec .slotGrant s = .next s.answerZeroMerges := by
  show execSlotGrant s = _
  unfold execSlotGrant
  obtain stopped | busy | idle := lacks
  · exact if_neg (Bool.eq_false_iff.mp stopped)
  · simp only [busy, ite_self]
  · simp only [idle]
    cases s.answerZeroMerges.freeUpstream <;> exact ite_self _

variable (s)

/-- The answers to all-zero merges leave the port and the translation: only the controller port and the flags change (R85). -/
theorem State.answerZeroMerges_rest : ∃ ctl flags, s.answerZeroMerges = { s with ctl := ctl, flags := flags } := by
  refine ⟨s.answerZeroMerges.ctl, s.answerZeroMerges.flags, State.same ?_ ?_ ?_ ?_ ?_ ?_ ?_ ?_ ?_ rfl ?_ ?_ rfl ?_ ?_ ?_ ?_⟩
  all_goals simp

variable (i : SlotNo) (tag : Tag) (line : Nat)

theorem State.answerZeroMerges_reads : s.answerZeroMerges.readWork tag line = s.readWork tag line
    ∧ s.answerZeroMerges.readOps i line = s.readOps i line := by
  obtain ⟨ctl, flags, rest⟩ := s.answerZeroMerges_rest
  rw [rest]
  exact ⟨rfl, rfl⟩

theorem State.answerZeroMerges_writes (data : LineData) : s.answerZeroMerges.writeWork tag line = s.writeWork tag line
    ∧ s.answerZeroMerges.writeOps i line data = s.writeOps i line data := by
  obtain ⟨ctl, flags, rest⟩ := s.answerZeroMerges_rest
  rw [rest]
  exact ⟨rfl, rfl⟩

end Attempt

section Granted

variable {s : State} {i : SlotNo} {e : IrqEntry} (issues : s.answerZeroMerges.queueMayIssue = true)
  (free : s.answerZeroMerges.freeUpstream = some i)
  (chosen : s.answerZeroMerges.oldestEligible [] s.answerZeroMerges.ctl.irq = some e)

include issues free chosen

theorem exec_slotGrant_reads (first : e.kind.ReadsFirst) : exec .slotGrant s =
    .next (s.answerZeroMerges.granted i e (s.readWork e.tag e.line) (s.readOps i e.line)) := by
  obtain ⟨work, ops⟩ := s.answerZeroMerges_reads i e.tag e.line
  rw [exec_slotGrant_grants issues free chosen, State.grant_reads _ i first, work, ops]

theorem exec_slotGrant_writes {data : LineData} (first : e.kind.WritesFirst data) : exec .slotGrant s =
    .next (s.answerZeroMerges.granted i e (s.writeWork e.tag e.line) (s.writeOps i e.line data)) := by
  obtain ⟨work, ops⟩ := s.answerZeroMerges_writes i e.tag e.line data
  rw [exec_slotGrant_grants issues free chosen, State.grant_writes _ i first, work, ops]

end Granted

theorem State.granted_slot (s : State) (i : SlotNo) (e : IrqEntry) (w : Work) (ops : List MediaOp) :
    (s.granted i e w ops).slot i = { epoch := (s.slot i).epoch, work := some w } :=
  Vector.getElem_set_self i.isLt

/-- Settles O41: every grant by the first phase of its request; the merges that an attempt answers before it leave the port and the
translation, and a queue without all-zero merges loses no entry to them. -/
theorem slotGrantIssuesTheFirstPhase : Obligations.SlotGrantIssuesTheFirstPhase := by
  refine ⟨fun s i e gate port settled takesSlots free chosen kind => ?_,
    fun s i e data gate port settled takesSlots free chosen kind => ?_,
    fun s => ⟨fun i => State.freeUpstream_some, State.freeUpstream_eq_none⟩, fun s => ⟨fun lacks => ?_, fun i e issues free chosen => ?_⟩⟩
  · rw [exec_slotGrant_of_no_zeroMerge gate port settled takesSlots free chosen, State.grant_reads s i (kind ▸ .read)]
    rfl
  · intro target second
    have grants := exec_slotGrant_of_no_zeroMerge gate port settled takesSlots free chosen
    rw [State.grant_writes s i (kind ▸ .write : e.kind.WritesFirst data)] at grants
    refine ⟨_, grants, List.append_cons s.media.out _ _, ⟨s.writeWork e.tag e.line, ?_, rfl, rfl, rfl, rfl, rfl, rfl, rfl, rfl⟩, rfl⟩
    rw [State.granted_slot]
  · refine exec_slotGrant_grants_nothing (lacks.imp_left fun stopped => Bool.eq_false_iff.mpr fun issues => stopped ?_)
    have conditions := s.answerZeroMerges.queueMayIssue_iff.mp issues
    simpa using conditions
  · intro queue issued reads writes
    have conditions : s.answerZeroMerges.queueMayIssue = true := s.answerZeroMerges.queueMayIssue_iff.mpr (by simpa using issues)
    have reading : e.kind.ReadsFirst → reads := exec_slotGrant_reads conditions free chosen
    have writing (data : LineData) : e.kind.WritesFirst data → writes data := exec_slotGrant_writes conditions free chosen
    refine ⟨fun kind => reading (kind ▸ .read), fun data kind => writing data (kind ▸ .write), fun data mask kind full => ?_,
      fun data mask kind partly => reading (kind ▸ .merge partly)⟩
    subst full
    exact writing data (kind ▸ .merge)

end Sys2Proof.Machine
end

section
/-! THEOREMS. The controller port over every step of the part: the credit sum, and the laws of the Inbound Request Queue (R143, R148,
R150, R151, R155). -/

namespace Sys2Proof.Machine

/-! ### One pass over the queue (R85, R154) -/

section Pass

variable (answers : IrqEntry → Option CtlMsg)

/-- The entries that a pass keeps stay in arrival order. -/
theorem answerPass_sublist (older : List Nat) (queue : List IrqEntry) : (answerPass answers older queue).1.Sublist queue := by
  induction queue generalizing older with
  | nil => exact .slnil
  | cons e queue ih =>
    unfold answerPass
    split
    · exact (ih older).cons e
    · exact (ih (e.line :: older)).cons_cons e

/-- A pass keeps an entry or sends a message for it. -/
theorem answerPass_length (older : List Nat) (queue : List IrqEntry) :
    (answerPass answers older queue).1.length + (answerPass answers older queue).2.length = queue.length := by
  induction queue generalizing older with
  | nil => rfl
  | cons e queue ih =>
    unfold answerPass
    split
    · exact congrArg (· + 1) (ih older)
    · exact (Nat.add_right_comm _ _ _).trans (congrArg (· + 1) (ih (e.line :: older)))

end Pass

/-! ### The credit sum (R143) -/

/-- Occupancy, credits held and credits pending. -/
def Ctl.credits (c : Ctl) : Nat := c.irq.length + c.g + c.p

theorem State.creditsSum_iff (s : State) : s.creditsSum ↔ s.ctl.credits = 32 := Iff.rfl

/-- A reset restores the 32 credits, and every other change moves credits between the three places. -/
theorem CtlStep.credits {a b : Ctl} (h : CtlStep a b) : b.credits = a.credits ∨ b.credits = 32 := by
  cases h with
  | reset => exact .inr rfl
  | out | close | gate | up => exact .inl rfl
  | restate | issue => exact .inl (by simp [Ctl.credits])
  | credit | warm =>
    refine .inl ?_
    simp only [Ctl.credits, List.length_nil]
    omega
  | refuse held | accept e held =>
    refine .inl ?_
    simp only [Ctl.credits, List.length_append, List.length_singleton]
    omega
  | retire tag o found =>
    refine .inl ?_
    obtain ⟨e, member, named⟩ := List.any_eq_true.mp found
    have one : (a.irq.eraseP fun e => e.tag == tag).length = a.irq.length - 1 := List.length_eraseP_of_mem member named
    have occupied : 0 < a.irq.length := List.length_pos_of_mem member
    simp only [Ctl.credits, one]
    omega
  | pass answers o =>
    refine .inl ?_
    have split := answerPass_length answers [] a.irq
    simp only [Ctl.credits]
    omega

theorem exec_keeps_creditsSum {c : Instr} {s t : State} (law : s.creditsSum) (h : exec c s = .next t) : t.creditsSum :=
  chain_keeps (P := fun c : Ctl => c.credits = 32) (fun _ _ change law => change.credits.elim (·.trans law) id) (exec_ctl h) law

/-- Settles O54: by the chain of changes that a command makes to the controller port. -/
theorem stepKeepsTheCreditSum : Obligations.StepKeepsTheCreditSum :=
  step_keeps (P := State.creditsSum) (fun _ _ law => law) (fun _ _ law => law) fun _ _ _ => exec_keeps_creditsSum

/-! ### The laws of the Inbound Request Queue (R148, R150, R151, R155) -/

section Queue

variable {c d : Ctl}

/-- Entries that leave the queue take no law with them. -/
theorem Ctl.Ok.of_sublist (law : c.Ok) (gate : d.gate = c.gate) (queue : d.irq.Sublist c.irq) : d.Ok where
  tags_unique := law.tags_unique.sublist (queue.map _)
  closed_empty closed := List.sublist_nil.mp (law.closed_empty (gate ▸ closed) ▸ queue)
  issued_first := law.issued_first.sublist queue

theorem Ctl.Ok.of_empty (empty : d.irq = []) : d.Ok where
  tags_unique := by simp [empty]
  closed_empty _ := empty
  issued_first := by simp [empty]

/-- A gate that opens or stops to close needs no empty queue (R155). -/
theorem Ctl.Ok.gate (law : c.Ok) {g : Gate} (g_open : g ≠ .closed) : Ctl.Ok { c with gate := g } :=
  ⟨law.tags_unique, fun closed => absurd closed g_open, law.issued_first⟩

/-- An entry joins the tail with a tag of its own, and not ISSUED (R148). -/
theorem Ctl.Ok.accept (law : c.Ok) {e : IrqEntry} (g : Nat) (gate : c.gate = .opened) (fresh : ∀ x ∈ c.irq, x.tag ≠ e.tag)
    (idle : e.state.isIssued = false) : Ctl.Ok { c with g := g, irq := c.irq ++ [e] } where
  tags_unique := by
    rw [← List.concat_eq_append, List.map_concat]
    exact law.tags_unique.concat (by simpa using fresh)
  closed_empty closed := absurd (gate.symm.trans closed) nofun
  issued_first := List.pairwise_append.mpr ⟨law.issued_first, List.pairwise_singleton _ _, by simp [idle]⟩

/-- Entries held or released keep their tags and lines, and none enters or leaves ISSUED (R58, R59). -/
theorem Ctl.Ok.restate (law : c.Ok) {f : IrqEntry → IrqEntry}
    (keeps : ∀ e, (f e).tag = e.tag ∧ (f e).line = e.line ∧ (f e).state.isIssued = e.state.isIssued) :
    Ctl.Ok { c with irq := c.irq.map f } where
  tags_unique := by
    simp only [List.map_map, Function.comp_def, keeps]
    exact law.tags_unique
  closed_empty closed := List.map_eq_nil_iff.mpr (law.closed_empty closed)
  issued_first := by
    simp only [List.pairwise_map, keeps]
    exact law.issued_first

/-- With unique tags, the state of one entry alone is replaced through its tag. -/
theorem map_state_of_tag {older younger : List IrqEntry} {e : IrqEntry} (st : IrqState)
    (unique : ((older ++ e :: younger).map IrqEntry.tag).Nodup) :
    (older ++ e :: younger).map (fun x => if x.tag = e.tag then { x with state := st } else x)
      = older ++ { e with state := st } :: younger := by
  rw [List.map_append, List.map_cons] at unique
  obtain ⟨fresh, -⟩ := List.nodup_cons.mp (List.nodup_middle.mp unique)
  have others : ∀ x, x ∈ older ∨ x ∈ younger → x.tag ≠ e.tag := fun x member same =>
    fresh (same ▸ by simpa only [← List.map_append] using List.mem_map_of_mem (List.mem_append.mpr member))
  have kept {part : List IrqEntry} (within : ∀ x ∈ part, x ∈ older ∨ x ∈ younger) :
      part.map (fun x => if x.tag = e.tag then { x with state := st } else x) = part :=
    (List.map_congr_left fun x member => if_neg (others x (within x member))).trans (List.map_id _)
  rw [List.map_append, List.map_cons, kept fun _ => .inl, kept fun _ => .inr, if_pos rfl]

/-- An entry that no older entry of its line precedes becomes ISSUED (R132, R150). -/
theorem Ctl.Ok.issue (law : c.Ok) {older younger : List IrqEntry} {e : IrqEntry} (i : SlotNo) (queue : c.irq = older ++ e :: younger)
    (first : ∀ x ∈ older, x.line ≠ e.line) :
    Ctl.Ok { c with irq := c.irq.map fun x => if x.tag = e.tag then { x with state := .issued i } else x } := by
  obtain ⟨unique, closed, issued⟩ := law
  rw [queue] at unique issued
  rw [queue, map_state_of_tag _ unique]
  refine ⟨by simpa using unique, fun shut => absurd (queue.symm.trans (closed shut)) (by simp), ?_⟩
  obtain ⟨olders, rest, across⟩ := List.pairwise_append.mp issued
  obtain ⟨behind, youngers⟩ := List.pairwise_cons.mp rest
  refine List.pairwise_append.mpr ⟨olders, List.pairwise_cons.mpr ⟨behind, youngers⟩, fun x hx y hy => ?_⟩
  rcases List.mem_cons.mp hy with rfl | hy
  · exact fun _ => first x hx
  · exact across x hx y (List.mem_cons_of_mem _ hy)

end Queue

theorem CtlStep.keeps_ok {a b : Ctl} (h : CtlStep a b) (law : a.Ok) : b.Ok := by
  cases h with
  | out | refuse | credit | up => exact law.of_sublist rfl (.refl _)
  | retire => exact law.of_sublist rfl (List.eraseP_sublist)
  | pass answers => exact law.of_sublist rfl (answerPass_sublist answers [] a.irq)
  | close empty => exact .of_empty empty
  | reset | warm => exact .of_empty rfl
  | gate g g_open => exact law.gate g_open
  | accept e _ gate fresh idle => exact law.accept _ gate fresh idle
  | restate f keeps => exact law.restate keeps
  | issue older e younger i queue first => exact law.issue i queue first

theorem exec_keeps_ctl_ok {c : Instr} {s t : State} (law : s.ctl.Ok) (h : exec c s = .next t) : t.ctl.Ok :=
  chain_keeps (P := Ctl.Ok) (fun _ _ => CtlStep.keeps_ok) (exec_ctl h) law

/-- Settles O55: each change that a command makes to the controller port keeps the laws. -/
theorem stepKeepsTheRequestQueueLaws : Obligations.StepKeepsTheRequestQueueLaws :=
  step_keeps (P := fun s => s.ctl.Ok) (fun _ _ law => law) (fun _ _ law => law) fun _ _ _ => exec_keeps_ctl_ok

end Sys2Proof.Machine
end

section
/-! THEOREMS. The arrival of a request: the tests of R144 in order, and what each outcome leaves (R5, R6, R58, R113, R143 to R148;
LOG 5). -/

namespace Sys2Proof.Machine

/-! ### The tag of a request (R181) -/

theorem tagOf_toNat (b : Byte) : (tagOf b).toNat = b.toNat % 64 := BitVec.toNat_setWidth 6 b

/-- The detail byte of an arrival's record is the tag (R180). -/
theorem tagOf_setWidth (b : Byte) : (tagOf b).setWidth 8 = BitVec.ofNat 8 (b.toNat % 64) :=
  tagOf_toNat b ▸ BitVec.eq_of_toNat_eq (by simp)

section Tag

variable {s : State} {b : Byte}

theorem State.entryOfTag_of_used (used : ∃ e ∈ s.ctl.irq, e.tag.toNat = b.toNat % 64) : (s.entryOfTag (tagOf b)).isSome = true := by
  simpa [State.entryOfTag, List.find?_isSome, ← BitVec.toNat_inj, tagOf_toNat] using used

theorem State.entryOfTag_of_fresh (fresh : ∀ e ∈ s.ctl.irq, e.tag.toNat ≠ b.toNat % 64) :
    ¬(s.entryOfTag (tagOf b)).isSome = true := by
  simpa [State.entryOfTag, ← BitVec.toNat_inj, tagOf_toNat] using fresh

end Tag

/-! ### The tests of R144, in order -/

section Arrival

variable {s : State} {tagByte : Byte} {line : LineAddr} {kind : RequestKind} (up : s.ctl.linkUp = true)

/-- The record of an arrival that is discarded or out of range: its line as received and its tag (R6, R146). -/
def State.arrivalRecord (s : State) (kind : FaultKind) (origin : Origin) (tagByte : Byte) (line : LineAddr) : Offer :=
  { kind := kind, time := s.now, origin := origin, injected := false, line := some line.toNat, phys := none, slot := none
    detail := BitVec.ofNat 8 (tagByte.toNat % 64) }

theorem State.offerArrival_eq (kind : FaultKind) (origin : Origin) :
    s.offerArrival kind origin (tagOf tagByte) line.toNat = s.offerRecord (s.arrivalRecord kind origin tagByte line) := by
  rw [State.arrivalRecord, ← tagOf_setWidth]
  rfl

include up

/-- A request with G = 0 (R145). -/
theorem State.arrive_overrun (spent : s.ctl.g = 0) : s.arrive tagByte line kind = s.count .creditOverruns := by
  rw [State.arrive, if_neg (by simp [up]), if_pos spent]

variable (credit : 1 ≤ s.ctl.g)

include credit

/-- A request with a tag in use (R146). -/
theorem State.arrive_duplicate (used : ∃ e ∈ s.ctl.irq, e.tag.toNat = tagByte.toNat % 64) :
    s.arrive tagByte line kind =
      (s.returnCredit.count .protocolErrors).offerRecord (s.arrivalRecord .protocol .link tagByte line) := by
  rw [State.arrive, if_neg (by simp [up]), if_neg (Nat.ne_zero_of_lt credit), if_pos (State.entryOfTag_of_used used),
    State.offerArrival_eq]
  rfl

variable (fresh : ∀ e ∈ s.ctl.irq, e.tag.toNat ≠ tagByte.toNat % 64)

include fresh

/-- The tests that remain once credit and tag have passed (R144). -/
theorem State.arrive_tested : s.arrive tagByte line kind =
    if s.ctl.gate ≠ .opened then (s.refuseArrival (tagOf tagByte) kind.writes .notOpen).count .notOpenRefusals
    else if s.media.failed then s.refuseArrival (tagOf tagByte) kind.writes .mediaFailed
    else if 2048 * (32768 - s.remap.s) ≤ line.toNat then
      (s.refuseArrival (tagOf tagByte) kind.writes .range).offerRecord (s.arrivalRecord .range .upstream tagByte line)
    else s.acceptRequest (tagOf tagByte) kind line.toNat := by
  rw [State.arrive, if_neg (by simp [up]), if_neg (Nat.ne_zero_of_lt credit), if_neg (State.entryOfTag_of_fresh fresh),
    State.offerArrival_eq]
  rfl

/-- A request behind a gate that is not OPEN (R147). -/
theorem State.arrive_notOpen (gate : s.ctl.gate ≠ .opened) : s.arrive tagByte line kind =
    (s.refuseArrival (tagOf tagByte) kind.writes .notOpen).count .notOpenRefusals := by
  rw [State.arrive_tested up credit fresh, if_pos gate]

variable (gate : s.ctl.gate = .opened)

include gate

/-- A request with the port FAILED (R147). -/
theorem State.arrive_failed (port : s.media.failed = true) : s.arrive tagByte line kind =
    s.refuseArrival (tagOf tagByte) kind.writes .mediaFailed := by
  rw [State.arrive_tested up credit fresh, if_neg (not_not.mpr gate), if_pos port]

variable (port : s.media.failed = false)

include port

/-- A request at or beyond visible capacity (R5, R6). -/
theorem State.arrive_range (beyond : 2048 * (32768 - s.remap.s) ≤ line.toNat) : s.arrive tagByte line kind =
    (s.refuseArrival (tagOf tagByte) kind.writes .range).offerRecord (s.arrivalRecord .range .upstream tagByte line) := by
  rw [State.arrive_tested up credit fresh, if_neg (not_not.mpr gate), if_neg (by simp [port]), if_pos beyond]

/-- A request that passes every test (R148). -/
theorem State.arrive_accepted (visible : line.toNat < 2048 * (32768 - s.remap.s)) :
    s.arrive tagByte line kind = s.acceptRequest (tagOf tagByte) kind line.toNat := by
  rw [State.arrive_tested up credit fresh, if_neg (not_not.mpr gate), if_neg (by simp [port]), if_neg (Nat.not_le.mpr visible)]

end Arrival

/-! ### The messages that carry a request (R142) -/

section Requests

variable {tagByte : Byte} {line : LineAddr} {data : LineData} {mask : ByteMask} {c : Instr}

/-- Each of the three messages is an arrival. -/
theorem exec_of_request (h : c ∈ [Instr.lineRead tagByte line, .lineWrite tagByte line data, .lineMerge tagByte line data mask]) :
    ∃ kind, ∀ s, exec c s = .next (s.arrive tagByte line kind) := by
  simp only [List.mem_cons, List.not_mem_nil, or_false] at h
  obtain rfl | rfl | rfl := h
  · exact ⟨.read, fun _ => rfl⟩
  · exact ⟨.write data, fun _ => rfl⟩
  · exact ⟨.merge data mask, fun _ => rfl⟩

/-- LINE_WRITE and LINE_MERGE are arrivals of requests that write. -/
theorem exec_of_write (h : c ∈ [Instr.lineWrite tagByte line data, .lineMerge tagByte line data mask]) :
    ∃ kind : RequestKind, kind.writes = true ∧ ∀ s, exec c s = .next (s.arrive tagByte line kind) := by
  simp only [List.mem_cons, List.not_mem_nil, or_false] at h
  obtain rfl | rfl := h
  · exact ⟨.write data, rfl, fun _ => rfl⟩
  · exact ⟨.merge data mask, rfl, fun _ => rfl⟩

end Requests

/-! ### Requests discarded or refused (R144 to R147) -/

/-- Settles O34: the first test of R144 ends the arrival of each message. -/
theorem requestWithoutCreditIsAnOverrun : Obligations.RequestWithoutCreditIsAnOverrun := by
  intro s tagByte line data mask up spent c hc
  obtain ⟨kind, arrives⟩ := exec_of_request hc
  rw [arrives, State.arrive_overrun up spent]

/-- Settles O35: the second test of R144 ends the arrival of each message. -/
theorem duplicateTagIsDiscarded : Obligations.DuplicateTagIsDiscarded := by
  intro s tagByte line data mask up credit used c hc
  obtain ⟨kind, arrives⟩ := exec_of_request hc
  rw [arrives, State.arrive_duplicate up credit used]
  rfl

/-- A refusal by the kind of the request: READ_FAIL to a LINE_READ, WRITE_RESPONSE FAIL to the others (R142, R147). -/
theorem exec_refused {s : State} {tagByte : Byte} {line : LineAddr} {data : LineData} {mask : ByteMask} {cause : FailCause}
    (after : State → State) (refused : ∀ kind, s.arrive tagByte line kind = after (s.refuseArrival (tagOf tagByte) kind.writes cause)) :
    exec (.lineRead tagByte line) s = .next (after (s.returnCredit.send (.readFail (tagOf tagByte) cause)))
    ∧ ∀ c ∈ [Instr.lineWrite tagByte line data, .lineMerge tagByte line data mask],
      exec c s = .next (after (s.returnCredit.send (.writeResponse (tagOf tagByte) (some cause)))) := by
  refine ⟨congrArg Host.Outcome.next (refused .read), fun c hc => ?_⟩
  obtain ⟨kind, writes, arrives⟩ := exec_of_write hc
  rw [arrives, refused, writes]
  rfl

/-- Settles O36: the tests of R144 after the tag, each with the answers of its cause. -/
theorem refusedRequestsAreAnsweredAtOnce : Obligations.RefusedRequestsAreAnsweredAtOnce := by
  constructor
  · intro s tagByte line data mask up credit fresh tag answered
    exact ⟨fun gate => exec_refused (·.count .notOpenRefusals) fun _ => State.arrive_notOpen up credit fresh gate,
      fun gate port => exec_refused id fun _ => State.arrive_failed up credit fresh gate port⟩
  · intro s tagByte line data mask up credit fresh gate port beyond tag refused
    exact exec_refused (·.offerRecord (s.arrivalRecord .range .upstream tagByte line))
      fun _ => State.arrive_range up credit fresh gate port beyond

/-! ### Requests accepted (R58, R113, R148) -/

theorem PatrolState.readInFlight_eq (p : PatrolState) : p.readInFlight = (p == .reading || p == .stopping .read) := by
  cases p with
  | stopping phase => cases phase <;> rfl
  | _ => rfl

/-- The cancel mark after an accepted request (R113). -/
theorem State.markCancel_eq (s : State) (writes : Bool) (line : Nat) : s.markCancel writes line =
    { s with patrol := { s.patrol with cancel := s.patrol.cancel ||
      (writes && (s.patrol.state == .reading || s.patrol.state == .stopping .read) && s.patrol.cursor == line) } } := by
  rw [← PatrolState.readInFlight_eq]
  unfold State.markCancel
  split
  · rename_i marks
    simp [marks, State.setPatrol]
  · rename_i spared
    have same : (writes && s.patrol.state.readInFlight && s.patrol.cursor == line) = false := by
      simpa [and_assoc] using spared
    rw [same, Bool.or_false]

/-- Settles O37: every test of R144 passed; the entry joined, then the cancel mark, then the grant attempt. -/
theorem acceptedRequestJoinsTheQueue : Obligations.AcceptedRequestJoinsTheQueue := by
  intro s tagByte line data mask up credit fresh gate port visible joined
  have accepts (kind : RequestKind) : s.arrive tagByte line kind = (joined kind kind.writes).answerZeroMerges := by
    rw [State.arrive_accepted up credit fresh gate port visible, State.acceptRequest, State.markCancel_eq]
    rfl
  exact ⟨congrArg _ (accepts .read), congrArg _ (accepts (.write data)), congrArg _ (accepts (.merge data mask))⟩

end Sys2Proof.Machine
end

section
/-! THEOREMS. LINK_RESET, OPEN_GATE and CLOSE_GATE (R141, R155, R156, R158; LOG 4, LOG 8, LOG 12). -/

namespace Sys2Proof.Machine

/-! ### LINK_RESET (R141, R158) -/

section Detached

variable {m : MediaSlot} {w : Work}

@[simp] theorem MediaSlot.detached_epoch (m : MediaSlot) : m.detached.epoch = m.epoch := by
  unfold MediaSlot.detached
  split
  · rfl
  · split <;> rfl

/-- An upstream slot loses its owner's entry and keeps the tag (R141; LOG 25). -/
theorem MediaSlot.detached_upstream {tag : Tag} {attached : Bool} (work : m.work = some w)
    (owner : w.owner = .upstream tag attached) : m.detached.work = some { w with owner := .upstream tag false } := by
  simp only [MediaSlot.detached, work, owner]

theorem MediaSlot.detached_free (free : m.work = none) : m.detached.work = none := by
  simp only [MediaSlot.detached, free]

/-- The copy's and the patrol's work stays (R141). -/
theorem MediaSlot.detached_background (work : m.work = some w) (owner : w.owner = .copy ∨ w.owner = .patrol) :
    m.detached.work = some w := by
  rcases owner with owner | owner <;> simp only [MediaSlot.detached, work, owner]

end Detached

theorem State.detachUpstream_slot (s : State) (i : SlotNo) : s.detachUpstream.slot i = (s.slot i).detached := by
  simp [State.detachUpstream, State.slot]

/-- The part that LINK_RESET leaves: the queue empty, so that a QUIESCING gate closes with its flag (R155, R158). -/
theorem exec_linkReset (s : State) : exec .linkReset s = .next
    { s with
      media := s.detachUpstream.media
      ctl :=
        { linkUp := false, gate := if s.ctl.gate = .quiescing then .closed else s.ctl.gate, g := 32, p := 0, irq := [], out := [] }
      flags := if s.ctl.gate = .quiescing then s.flags ||| 0x0200 else s.flags } := by
  refine congrArg Host.Outcome.next ?_
  by_cases gate : s.ctl.gate = .quiescing
  · rw [State.closeIfEmpty_closes (by exact gate) rfl, if_pos gate, if_pos gate]
    rfl
  · rw [State.closeIfEmpty_open (.inl (by exact gate)), if_neg gate, if_neg gate]
    rfl

/-- Settles O39: the state that the reset leaves, and each slot by what it held. -/
theorem linkResetClearsTheControllerSide : Obligations.LinkResetClearsTheControllerSide := by
  intro s
  refine ⟨_, exec_linkReset s, rfl, rfl, rfl, fun i => ?_⟩
  have slot := s.detachUpstream_slot i
  have work := congrArg MediaSlot.work slot
  exact ⟨(congrArg MediaSlot.epoch slot).trans (MediaSlot.detached_epoch _),
    fun _ _ _ held owner => work.trans (MediaSlot.detached_upstream held owner), fun free => work.trans (MediaSlot.detached_free free),
    fun _ held owner => work.trans (MediaSlot.detached_background held owner)⟩

/-! ### OPEN_GATE and CLOSE_GATE (R155, R156) -/

section GateCommands

variable (s : State)

theorem State.openGate_of_closed (gate : s.ctl.gate = .closed) :
    s.openGate = State.complete { s with ctl := { s.ctl with gate := .opened } } .ok := by
  simp only [State.openGate, gate]
  rfl

theorem State.openGate_of_not_closed (gate : s.ctl.gate ≠ .closed) : s.openGate = s.complete .wrongState := by
  unfold State.openGate
  split
  · rename_i closed
    exact absurd closed gate
  · rfl
  · rfl

theorem State.closeGate_of_not_opened (gate : s.ctl.gate ≠ .opened) : s.closeGate = s.complete .ok := by
  unfold State.closeGate
  split
  · rename_i opened
    exact absurd opened gate
  · rfl
  · rfl

theorem State.closeGate_of_opened (gate : s.ctl.gate = .opened) :
    s.closeGate = (s.setGate .quiescing).closeIfEmpty.complete .ok := by
  simp only [State.closeGate, gate]

/-- An OPEN gate over a queue with entries stops taking requests (R155). -/
theorem State.closeGate_quiesces (gate : s.ctl.gate = .opened) (queue : s.ctl.irq ≠ []) :
    s.closeGate = State.complete { s with ctl := { s.ctl with gate := .quiescing } } .ok := by
  rw [s.closeGate_of_opened gate, State.closeIfEmpty_open (.inr (by exact queue))]
  rfl

/-- An OPEN gate over an empty queue closes at once (R155, R156). -/
theorem State.closeGate_closes (gate : s.ctl.gate = .opened) (empty : s.ctl.irq = []) : s.closeGate =
    State.complete { s with ctl := { s.ctl with gate := .closed }, flags := s.flags ||| 0x0200 } .ok := by
  rw [s.closeGate_of_opened gate, State.closeIfEmpty_closes rfl (by exact empty)]
  rfl

variable {s} {p : Params}

theorem execOpenGate_of_takes (h : s.takes codeOpenGate p) : exec .openGate s = .next (s.busy codeOpenGate p).openGate :=
  congrArg _ (runCommand_of_takes _ h)

theorem execCloseGate_of_takes (h : s.takes codeCloseGate p) : exec .closeGate s = .next (s.busy codeCloseGate p).closeGate :=
  congrArg _ (runCommand_of_takes _ h)

end GateCommands

/-- Settles O42: each command from its taking, by the state of the gate and of the queue. -/
theorem gateCommandsChangeTheGate : Obligations.GateCommandsChangeTheGate := by
  intro s p
  refine ⟨fun h => ?_, fun h => ?_⟩
  · rw [execOpenGate_of_takes h]
    refine ⟨fun gate => ?_, fun gate => ?_⟩
    · rw [State.openGate_of_closed (s.busy codeOpenGate p) gate]
      rfl
    · rw [State.openGate_of_not_closed (s.busy codeOpenGate p) gate, busy_complete]
  · rw [execCloseGate_of_takes h]
    refine ⟨fun gate queue => ?_, fun gate empty => ?_, fun gate => ?_⟩
    · rw [State.closeGate_quiesces (s.busy codeCloseGate p) gate queue]
      rfl
    · rw [State.closeGate_closes (s.busy codeCloseGate p) gate empty]
      rfl
    · rw [State.closeGate_of_not_opened (s.busy codeCloseGate p) gate, busy_complete]

end Sys2Proof.Machine
end

section
/-! THEOREMS. GET_STATUS: the bytes of its readout, and the command (R157, R173, R179; LOG 4). -/

namespace Sys2Proof.Machine

/-! ### Readouts in DATA and DATA_X (R179) -/

theorem leBytes_getElem? {n i : Nat} (v : Nat) (h : i < n) : (leBytes n v)[i]? = some (BitVec.ofNat 8 (v / 256 ^ i)) := by
  induction n generalizing v i with
  | zero => exact absurd h (Nat.not_lt_zero i)
  | succ n ih =>
    cases i with
    | zero => simp [leBytes]
    | succ i =>
      rw [leBytes, List.getElem?_cons_succ, ih _ (Nat.lt_of_succ_lt_succ h), Nat.div_div_eq_div_mul, Nat.pow_succ, Nat.mul_comm]

section Readouts

variable (s : State)

/-- A readout of 32 bytes is the whole of DATA. -/
theorem putData_toList {bytes : List Byte} (full : bytes.length = 32) : (s.putData bytes).mgmt.data.toList = bytes := by
  refine List.ext_getElem (by simp [full]) fun k hk hb => ?_
  simp [State.putData, State.setMgmt, List.getElem?_eq_getElem hb]

/-- A readout of 9 bytes is the whole of DATA_X. -/
theorem putDataX_toList {bytes : List Byte} (full : bytes.length = 9) : (s.putDataX bytes).mgmt.dataX.toList = bytes := by
  refine List.ext_getElem (by simp [full]) fun k hk hb => ?_
  simp [State.putDataX, State.setMgmt, List.getElem?_eq_getElem hb]

theorem putDataX_byte (bytes : List Byte) (k : Fin 9) :
    (s.putDataX bytes).mgmt.dataX[k] = (bytes[k.val]?).getD s.mgmt.dataX[k] := by
  simp [State.putDataX, State.setMgmt]

end Readouts

/-! ### The status readout (R173, R179) -/

section Status

variable (s : State)

/-- STATUS0 is the layout of R173. -/
theorem status0_eq_statusLayout : s.status0 = s.statusLayout := by
  have port : 4 * (if s.media.failed then 1 else 0) = if s.media.failed then 4 else 0 := by split <;> rfl
  rw [State.status0, port]
  rfl

theorem busySlots_eq : s.busySlots = (s.media.slots.toList.filter fun m => m.work ≠ none).length := by
  simp only [State.busySlots, ← Option.isSome_iff_ne_none, Bool.decide_eq_true]

theorem contextBytes_length (engine : Option EngineCtx) : (contextBytes engine).length = 11 := by
  cases engine <;> rfl

/-- DATA 0 to 30 are the layout of R179, and DATA 31 is the byte of the armed slots. -/
theorem statusBytes_eq_statusReadout : s.statusBytes = s.statusReadout ++ [armedByte s.inject] := by
  simp only [State.statusBytes, State.statusReadout, status0_eq_statusLayout, busySlots_eq, leBytes_two, leBytes_four]
  cases s.engine with
  | none => rfl
  | some c =>
    simp only [contextBytes, leBytes_four]
    cases c.source <;> cases c.cause <;> rfl

theorem statusReadout_length : s.statusReadout.length = 31 := by
  unfold State.statusReadout
  cases s.engine <;> rfl

theorem statusBytes_length : s.statusBytes.length = 32 := by
  rw [statusBytes_eq_statusReadout, List.length_append, statusReadout_length, List.length_singleton]

theorem statusXBytes_length : s.statusXBytes.length = 9 := by
  simp [State.statusXBytes, leBytes_four, fourBytes]

/-- The engine's context stands at DATA 10 to 20 (R179). -/
theorem statusBytes_context {i : Nat} (h : i < 11) : s.statusBytes[10 + i]? = (contextBytes s.engine)[i]? := by
  simp only [State.statusBytes, List.append_assoc]
  rw [List.getElem?_append_right (Nat.le_add_right 10 i), List.getElem?_append_left (by simpa [contextBytes_length] using h)]
  simp

/-- The patrol's cursor stands at DATA 21 to 24 (R179). -/
theorem statusBytes_cursor {i : Nat} (h : i < 4) :
    s.statusBytes[21 + i]? = some (BitVec.ofNat 8 (s.patrol.cursor / 256 ^ i)) := by
  have cursor : i < (leBytes 4 s.patrol.cursor).length := h
  simp only [State.statusBytes, List.append_assoc]
  rw [← List.append_assoc, List.getElem?_append_right (by simp [contextBytes_length]), List.getElem?_append_left
    (by simpa [contextBytes_length] using cursor), ← leBytes_getElem? _ h]
  simp [contextBytes_length]

/-- Bit i of DATA 31 is the armed bit of slot i, and bits 4 to 7 are 0 (R179). -/
theorem armedByte_bits (slots : Vector InjectSlot 4) (i : Fin 4) :
    (armedByte slots).getLsbD i = slots[i].armed ∧ (armedByte slots).getLsbD (4 + i) = false := by
  have bits : ∀ a b c d : Bool, ∀ i : Fin 4,
      let byte := byteOf ((if a then 1 else 0) + (if b then 2 else 0) + (if c then 4 else 0) + (if d then 8 else 0))
      byte.getLsbD i = #v[a, b, c, d][i] ∧ byte.getLsbD (4 + i) = false := by decide
  obtain ⟨low, high⟩ := bits slots[0].armed slots[1].armed slots[2].armed slots[3].armed i
  refine ⟨low.trans ?_, high⟩
  fin_cases i <;> rfl

end Status

/-! ### GET_STATUS (R157) -/

section GetStatus

variable {s : State}

/-- A byte of the readout in DATA. -/
theorem statusBytes_data {k : Nat} (h : k < 32) {b : Byte} (byte : s.statusBytes[k]? = some b) :
    (s.putData s.statusBytes).mgmt.data[k] = b :=
  (putData_byte s s.statusBytes ⟨k, h⟩).trans (by rw [byte, Option.getD_some])

/-- A byte of the engine's context in DATA (R179). -/
theorem contextBytes_data {i : Nat} (h : i < 11) {b : Byte} (byte : (contextBytes s.engine)[i]? = some b) :
    (s.putData s.statusBytes).mgmt.data[10 + i] = b :=
  statusBytes_data _ ((statusBytes_context s h).trans byte)

/-- The match counters stand at DATA_X 0 to 3 (R179). -/
theorem statusXBytes_count (i : Fin 4) : (s.putDataX s.statusXBytes).mgmt.dataX[i.val] = BitVec.ofNat 8 s.inject[i].count := by
  have byte : s.statusXBytes[i.val]? = some (byteOf s.inject[i].count) := by
    rw [State.statusXBytes, toList_of_vector_four]
    fin_cases i <;> rfl
  refine (putDataX_byte s s.statusXBytes ⟨i, by omega⟩).trans ?_
  rw [byte, Option.getD_some]
  rfl

/-- The millisecond count and a zero end DATA_X (R179). -/
theorem statusXBytes_time : (s.putDataX s.statusXBytes).mgmt.dataX.toList.drop 4 = fourBytes s.now.toNat ++ [0] := by
  rw [putDataX_toList s (statusXBytes_length s), State.statusXBytes, toList_of_vector_four, leBytes_four]
  rfl

/-- A command that completes with two readouts changes DATA and DATA_X alone. -/
theorem putData_putDataX (data dataX : List Byte) : (s.putData data).putDataX dataX =
    { s with mgmt := { s.mgmt with data := (s.putData data).mgmt.data, dataX := (s.putDataX dataX).mgmt.dataX } } := by
  simp only [State.putDataX, State.putData, State.setMgmt]

theorem exec_getStatus {p : Params} (h : s.takes codeGetStatus p) : exec .getStatus s =
    .next (State.finished
      { s with mgmt := { s.mgmt with
        data := (s.putData s.statusBytes).mgmt.data, dataX := (s.putDataX s.statusXBytes).mgmt.dataX } } codeGetStatus .ok) := by
  rw [← putData_putDataX]
  exact congrArg _ (runCommand_of_takes _ h)

end GetStatus

/-- Settles O43: the command from its taking, each field from its bytes in the readout. -/
theorem getStatusReadsOut : Obligations.GetStatusReadsOut := by
  intro s p h
  have first : (s.putData s.statusBytes).mgmt.data[0] = s.status0 := statusBytes_data (by decide) rfl
  have layout : (s.putData s.statusBytes).mgmt.data.toList.take 31 = s.statusReadout := by
    rw [putData_toList s (statusBytes_length s), statusBytes_eq_statusReadout, List.take_left' (statusReadout_length s)]
  have last : (s.putData s.statusBytes).mgmt.data[31] = armedByte s.inject := by
    refine statusBytes_data (by decide) ?_
    rw [statusBytes_eq_statusReadout, List.getElem?_append_right (statusReadout_length s).le, statusReadout_length]
    rfl
  refine ⟨_, exec_getStatus h, rfl, first, layout, fun i => ?_, statusXBytes_count, statusXBytes_time, fun idle i => ?_,
    fun c engine => ⟨?_, ?_⟩, fun i => ?_⟩
  · have bits := armedByte_bits s.inject i
    rw [← last] at bits
    exact bits
  · refine contextBytes_data i.isLt ?_
    rw [idle, contextBytes, List.getElem?_replicate_of_lt i.isLt]
  · exact contextBytes_data (i := 3) (by decide) (by rw [engine]; rfl)
  · exact contextBytes_data (i := 4) (by decide) (by rw [engine]; rfl)
  · exact statusBytes_data _ (statusBytes_cursor s i.isLt)

end Sys2Proof.Machine
end

section
/-! THEOREMS. The event flags and ALERT_N (R168 to R171, R174); the counters and their commands (R166, R167); the fault log, its
records and its commands (R162, R164, R180). -/

namespace Sys2Proof.Machine

/-! ### The event flags as they read (R168, R169, R174) -/

/-- A bit of the flags as they read: bits 1 to 10 are stored, bit 0 follows the log, bits 11 to 15 are 0 (R169, R174). -/
theorem State.flagBits_bit (s : State) (i : Nat) : s.flagBits.getLsbD i =
    (s.flags.getLsbD i && (0x07FE#16).getLsbD i || decide (i = 0) && !s.log.records.isEmpty) := by
  have log : (if s.log.records.isEmpty then 0#16 else 1#16).getLsbD i = (decide (i = 0) && !s.log.records.isEmpty) := by
    cases s.log.records <;> simp
  rw [← log, ← BitVec.getLsbD_and, ← BitVec.getLsbD_or]
  rfl

/-- LOG_NONEMPTY follows the log (R169). -/
theorem State.flag_logNonempty_iff (s : State) : s.flag .logNonempty = true ↔ s.log.records ≠ [] := by
  have masked : (0x07FE#16).getLsbD 0 = false := by decide
  have reads : s.flag .logNonempty = !s.log.records.isEmpty := by
    rw [State.flag, State.flagBits_bit, Flag.bit, masked, Bool.and_false, Bool.false_or]
    exact Bool.true_and _
  rw [reads]
  simp

/-- A write to FLAGS0 clears the bits of its byte that are 1, and leaves bits 8 to 15 (R168, R174). -/
theorem State.clearFlags_flags0_bit (s : State) (value : Byte) (i : Nat) :
    (s.clearFlags .flags0 value).flags.getLsbD i = true ↔
      s.flags.getLsbD i = true ∧ ¬(i < 8 ∧ value.getLsbD i = true) := by
  have inside : value.getLsbD i = true → i < 8 := BitVec.lt_of_getLsbD
  rw [and_iff_right_of_imp inside]
  show (s.flags &&& ~~~(value.setWidth 16)).getLsbD i = true ↔ _
  rw [BitVec.getLsbD_and, Bool.and_eq_true]
  refine and_congr_right fun set => ?_
  simp [BitVec.lt_of_getLsbD set]

/-- A write to FLAGS1 clears the bits of its byte that are 1, and leaves bits 0 to 7 (R168, R174). -/
theorem State.clearFlags_flags1_bit (s : State) (value : Byte) (i : Nat) :
    (s.clearFlags .flags1 value).flags.getLsbD i = true ↔
      s.flags.getLsbD i = true ∧ ¬(8 ≤ i ∧ value.getLsbD (i - 8) = true) := by
  show (s.flags &&& ~~~(value.setWidth 16 <<< 8)).getLsbD i = true ↔ _
  rw [BitVec.getLsbD_and, Bool.and_eq_true]
  refine and_congr_right fun set => ?_
  have place : i < 16 := BitVec.lt_of_getLsbD set
  have shifted : i - 8 < 16 := (Nat.sub_le i 8).trans_lt place
  rw [BitVec.getLsbD_not, BitVec.getLsbD_shiftLeft, BitVec.getLsbD_setWidth]
  simp [place, shifted, or_iff_not_imp_left]

/-- A flag write changes the flags alone (R168). -/
theorem State.clearFlags_eq (s : State) (which : FlagByte) (value : Byte) :
    s.clearFlags which value = { s with flags := (s.clearFlags which value).flags } := by
  cases which <;> rfl

/-- Settles O6: LOG_NONEMPTY reads from the log, every other flag from its bit, which the write to its byte clears. -/
theorem flagWriteClearsTheWrittenFlags : Obligations.FlagWriteClearsTheWrittenFlags := by
  intro s which value
  refine ⟨_, rfl, s.clearFlags_eq which value, ?_, fun f other => ?_⟩
  · rw [State.flag_logNonempty_iff, s.clearFlags_eq]
  · rw [State.flag_eq _ other, State.flag_eq _ other]
    cases which with
    | flags0 => exact s.clearFlags_flags0_bit value f.bit
    | flags1 => exact s.clearFlags_flags1_bit value f.bit

/-! ### ALERT_N and SET_ALERT_MASK (R170, R171) -/

/-- The places of the flags are the bits 0 to 10 (R174). -/
theorem Flag.exists_bit_eq {i : Nat} (h : i < 11) : ∃ f : Flag, f.bit = i :=
  ⟨Flag.ofNat i, by interval_cases i <;> rfl⟩

theorem Flag.bit_lt (f : Flag) : f.bit < 11 := by
  cases f <;> decide

/-- Bits 11 to 15 of the flags read as 0 (R174). -/
theorem State.flagBits_lt {s : State} {i : Nat} (h : s.flagBits.getLsbD i = true) : i < 11 := by
  have width : i < 16 := BitVec.lt_of_getLsbD h
  by_contra above
  rw [Nat.not_lt] at above
  have unnamed : (0x07FE#16).getLsbD i = false := by interval_cases i <;> rfl
  have apart : decide (i = 0) = false := decide_eq_false (by omega)
  rw [State.flagBits_bit, unnamed, apart, Bool.and_false, Bool.false_and, Bool.or_false] at h
  exact Bool.false_ne_true h

/-- Two words have a bit in common exactly when their conjunction is not 0. -/
theorem and_bne_zero_iff {w : Nat} (a b : BitVec w) :
    (a &&& b != 0) = true ↔ ∃ i, a.getLsbD i = true ∧ b.getLsbD i = true := by
  rw [bne_iff_ne]
  constructor
  · intro common
    by_contra apart
    refine common (BitVec.eq_of_getLsbD_eq fun i _ => ?_)
    rw [BitVec.getLsbD_and, Bool.eq_false_iff.mpr fun both => apart ⟨i, Bool.and_eq_true_iff.mp both⟩]
    exact BitVec.getLsbD_zero.symm
  · rintro ⟨i, left, right⟩ zero
    have bit : (a &&& b).getLsbD i = true := by rw [BitVec.getLsbD_and, left, right, Bool.and_true]
    rw [zero] at bit
    exact Bool.false_ne_true (BitVec.getLsbD_zero.symm.trans bit)

/-- ALERT_N is low exactly when a flag that reads set is enabled (R170). -/
theorem State.alertLow_iff (s : State) :
    s.alertLow = true ↔ ∃ f : Flag, s.flag f = true ∧ s.mask.getLsbD f.bit = true := by
  constructor
  · intro low
    obtain ⟨i, set, enabled⟩ := (and_bne_zero_iff _ _).mp low
    obtain ⟨f, rfl⟩ := Flag.exists_bit_eq (State.flagBits_lt set)
    exact ⟨f, set, enabled⟩
  · rintro ⟨f, set, enabled⟩
    exact (and_bne_zero_iff _ _).mpr ⟨f.bit, set, enabled⟩

/-- A mask of 16 bits stays within the flag positions exactly when it is below 2,048 (R171, R174). -/
theorem and_not_flagPositions_eq_zero_iff (v : BitVec 16) : v &&& ~~~flagPositions = 0 ↔ v.toNat < 2048 := by
  have low : (v &&& flagPositions).toNat = v.toNat % 2048 := by
    rw [BitVec.toNat_and]
    exact Nat.and_two_pow_sub_one_eq_mod v.toNat 11
  have named : v &&& ~~~flagPositions = 0 ↔ v &&& flagPositions = v := by
    constructor
    · intro none
      calc v &&& flagPositions
        _ = v &&& flagPositions ||| v &&& ~~~flagPositions := by rw [none]; exact BitVec.or_zero.symm
        _ = v &&& BitVec.allOnes 16 := by rw [← BitVec.and_or_distrib_left]; rfl
        _ = v := BitVec.and_allOnes
    · intro all
      rw [← all, BitVec.and_assoc]
      exact BitVec.and_zero
  rw [named, ← BitVec.toNat_inj, low]
  omega

theorem paramHalf_lt (p : Params) (i : Nat) : paramHalf p i < 65536 := by
  have low := paramByte_le p i
  have high := paramByte_le p (i + 1)
  unfold paramHalf
  omega

/-- SET_ALERT_MASK's check (R171). -/
theorem State.setAlertMask_eq (s : State) {m : Nat} (h : m < 65536) : s.setAlertMask (BitVec.ofNat 16 m) =
    if m < 2048 then State.complete { s with mask := BitVec.ofNat 16 m } .ok else s.complete .badParam := by
  have value : (BitVec.ofNat 16 m).toNat = m := Nat.mod_eq_of_lt h
  simp only [State.setAlertMask, and_not_flagPositions_eq_zero_iff, value]

/-- SET_ALERT_MASK's two answers (R171). -/
theorem exec_setAlertMask {s : State} {p : Params} (h : s.takes codeSetAlertMask p) : exec .setAlertMask s =
    .next (if paramHalf p 0 < 2048 then State.finished { s with mask := BitVec.ofNat 16 (paramHalf p 0) } codeSetAlertMask .ok
      else s.finished codeSetAlertMask .badParam) := by
  have taken : exec .setAlertMask s =
      .next ((s.busy codeSetAlertMask p).setAlertMask (BitVec.ofNat 16 (paramHalf p 0))) :=
    congrArg _ (runCommand_of_takes _ h)
  rw [taken, State.setAlertMask_eq _ (paramHalf_lt p 0), busy_complete]
  rfl

/-- Settles O52: the check is a bound on the mask, and ALERT_N's bits are the places of the flags. -/
theorem setAlertMaskReplacesTheMask : Obligations.SetAlertMaskReplacesTheMask := by
  intro s p h m
  rw [exec_setAlertMask h]
  refine ⟨fun above => congrArg _ (if_neg (Nat.not_lt.mpr above)), fun inside => ⟨_, congrArg _ (if_pos inside), rfl, ?_⟩⟩
  rw [State.alertLow_iff]
  refine exists_congr fun f => and_congr_right fun _ => ?_
  have place : f.bit < 16 := f.bit_lt.trans (by decide)
  show (BitVec.ofNat 16 m).getLsbD f.bit = true ↔ _
  rw [BitVec.getLsbD_ofNat, decide_eq_true place, Bool.true_and]

/-! ### Counters (R166, R167) -/

/-- The groups of the table of R166. -/
theorem counterGroup_eq (group : Nat) : counterGroup group =
    (if group = 0 then 0 else if group = 1 then 8 else 12, if group = 0 then 8 else if group = 1 then 4 else 6) := by
  match group with
  | 0 | 1 | _ + 2 => rfl

/-- A counter's event raises it alone, up to 65,535 (R166). -/
theorem State.count_counters_get (s : State) (c : Counter) (i : Fin 18) :
    (s.count c).counters[i] = if i = c.index then min (s.counters[i] + 1) 65535 else s.counters[i] := by
  by_cases same : i = c.index
  · subst same
    rw [if_pos rfl]
    exact s.count_counter c
  · rw [if_neg same]
    exact Vector.getElem_set_ne c.index.isLt i.isLt (Fin.val_ne_of_ne (Ne.symm same))

theorem State.clearGroup_counters_get (s : State) (group : Nat) (i : Fin 18) : (s.clearGroup group).counters[i] =
    if (counterGroup group).1 ≤ i.val ∧ i.val < (counterGroup group).1 + (counterGroup group).2 then 0 else s.counters[i] := by
  simp [State.clearGroup]

section CounterCommands

variable {s : State} {p : Params}

theorem execReadCounters_of_takes (h : s.takes codeReadCounters p) :
    exec .readCounters s = .next ((s.busy codeReadCounters p).readCounters (paramByte p 0) (onOff (paramByte p 1))) :=
  congrArg _ (runCommand_of_takes _ h)

theorem exec_clearCounters (h : s.takes codeClearCounters p) : exec .clearCounters s =
    .next (State.finished { s with counters := Vector.replicate 18 0 } codeClearCounters .ok) :=
  congrArg _ (runCommand_of_takes _ h)

end CounterCommands

/-- READ_COUNTERS of an unknown group, or with a clear choice that is neither no nor yes (R167, R178). -/
theorem State.readCounters_badParam (s : State) {group clear : Nat} (h : 2 < group ∨ 1 < clear) :
    s.readCounters group (onOff clear) = s.complete .badParam := by
  rw [onOff_eq]
  by_cases choice : clear ≤ 1
  · rw [if_pos choice, State.readCounters, if_pos (h.resolve_right (Nat.not_lt.mpr choice))]
  · rw [if_neg choice, State.readCounters]

/-- READ_COUNTERS reads the group's values before it clears them (R167). -/
theorem State.readCounters_of_valid (s : State) {group clear : Nat} (known : group ≤ 2) (choice : clear ≤ 1) :
    s.readCounters group (onOff clear) =
      if clear = 1 then (s.completeWith (s.counterBytes group)).clearGroup group
      else s.completeWith (s.counterBytes group) := by
  rw [onOff_eq, if_pos choice, State.readCounters, if_neg (Nat.not_lt.mpr known)]
  simp only [beq_iff_eq]

/-- The clear of a group leaves DATA and the end of the command (R167). -/
theorem State.clearGroup_finished (s : State) (group : Nat) (bytes : List Byte) (code : Byte) (r : ResultCode) :
    State.clearGroup ((s.putData bytes).finished code r) group =
      (State.putData { s with counters := (s.clearGroup group).counters } bytes).finished code r := by
  simp only [State.clearGroup, State.finished, State.putData, State.setMgmt]

theorem counterBytes_busy (s : State) (code : Byte) (p : Params) (group : Nat) :
    (s.busy code p).counterBytes group = s.counterBytes group := rfl

/-- READ_COUNTERS's two answers (R167). -/
theorem exec_readCounters {s : State} {p : Params} (h : s.takes codeReadCounters p) :
    (2 < paramByte p 0 ∨ 1 < paramByte p 1 → exec .readCounters s = .next (s.finished codeReadCounters .badParam))
    ∧ (paramByte p 0 ≤ 2 → paramByte p 1 ≤ 1 → exec .readCounters s = .next (State.finished (State.putData
        { s with counters := if paramByte p 1 = 1 then (s.clearGroup (paramByte p 0)).counters else s.counters }
        (s.counterBytes (paramByte p 0))) codeReadCounters .ok)) := by
  rw [execReadCounters_of_takes h]
  refine ⟨fun refused => ?_, fun known choice => ?_⟩
  · rw [State.readCounters_badParam _ refused, busy_complete]
  · rw [State.readCounters_of_valid _ known choice, counterBytes_busy, busy_completeWith, State.clearGroup_finished]
    split <;> rfl

/-- Settles O51: READ_COUNTERS by its check and the places of its group, CLEAR_COUNTERS from its taking, an event by the place that
it counts in. -/
theorem counterCommandsReadAndClear : Obligations.CounterCommandsReadAndClear := by
  refine ⟨fun s p => ?_, fun s c => ⟨rfl, s.count_counters_get c⟩⟩
  intro group clear first size
  have places : counterGroup group = (first, size) := counterGroup_eq group
  refine ⟨fun h => ?_, exec_clearCounters⟩
  obtain ⟨refused, answered⟩ := exec_readCounters h
  refine ⟨refused, fun known choice => ⟨_, answered known choice, ?_, fun i => ?_⟩⟩
  · have values : s.groupValues group = (s.counters.toList.drop first).take size := by rw [State.groupValues, places]
    rw [State.counterBytes, values]
    rfl
  · show (if clear = 1 then (s.clearGroup group).counters else s.counters)[i] = _
    by_cases yes : clear = 1
    · rw [if_pos yes, State.clearGroup_counters_get, places]
      simp only [yes, true_and]
    · rw [if_neg yes, if_neg (fun all => yes all.1)]

/-! ### The fault log and its records (R162, R164, R180) -/

section FaultCommands

variable {s : State} {p : Params}

theorem execReadFault_of_takes (h : s.takes codeReadFault p) :
    exec .readFault s = .next (s.busy codeReadFault p).readFault :=
  congrArg _ (runCommand_of_takes _ h)

theorem execPopFault_of_takes (h : s.takes codePopFault p) :
    exec .popFault s = .next (s.busy codePopFault p).popFault :=
  congrArg _ (runCommand_of_takes _ h)

end FaultCommands

/-- READ_FAULT's two answers (R164). -/
theorem exec_readFault {s : State} {p : Params} (h : s.takes codeReadFault p) :
    (s.log.records = [] → exec .readFault s = .next (s.finished codeReadFault .empty))
    ∧ ∀ r rest, s.log.records = r :: rest →
      exec .readFault s = .next ((s.putData r.bytes).finished codeReadFault .ok) := by
  rw [execReadFault_of_takes h]
  refine ⟨fun empty => ?_, fun r rest head => ?_⟩
  · simp only [State.readFault, State.busy_frame, empty, busy_complete]
  · simp only [State.readFault, State.busy_frame, head, busy_completeWith]

/-- POP_FAULT's two answers (R164). -/
theorem exec_popFault {s : State} {p : Params} (h : s.takes codePopFault p) :
    (s.log.records = [] → exec .popFault s = .next (s.finished codePopFault .empty))
    ∧ ∀ r rest, s.log.records = r :: rest → exec .popFault s =
      .next (State.finished { s with log := { s.log with records := rest } } codePopFault .ok) := by
  rw [execPopFault_of_takes h]
  refine ⟨fun empty => ?_, fun r rest head => ?_⟩
  · simp only [State.popFault, State.busy_frame, empty, busy_complete]
  · simp only [State.popFault, State.busy_frame, head]
    rfl

/-- Byte 2 of a record holds the code of the kind and, in bits 5 and 6, the severity that the kind fixes (R161, R180). -/
theorem FaultKind.code_add_severity (k : FaultKind) : k.code + 32 * k.severity.code = kindByte k := by
  cases k <;> rfl

theorem Origin.code_eq_originCode (o : Origin) : o.code = originCode o := by
  cases o <;> rfl

section Record

variable (o : Offer)

theorem Offer.injectedBit_eq : 128 * (if o.injected then 1 else 0) = if o.injected then 128 else 0 := by
  split <;> rfl

theorem presenceBit_eq {α : Type} (part : Option α) (weight : Nat) :
    weight * (if part.isSome then 1 else 0) = if part = none then 0 else weight := by
  cases part <;> simp

/-- The presence bits of the physical address and of its column (R180). -/
theorem Offer.addressBits_eq : 16 * (if o.phys.isSome then 1 else 0) + 32 * (if o.hasColumn then 1 else 0) =
    match o.phys with
    | none => 0
    | some a => if a.column = none then 16 else 16 + 32 := by
  unfold Offer.hasColumn
  cases o.phys with
  | none => rfl
  | some a => cases h : a.column <;> simp [h]

/-- Byte 3 of a record: the origin and the presence bits (R180). -/
theorem Offer.originByte_eq : o.origin.code + 8 * (if o.line.isSome then 1 else 0) + 16 * (if o.phys.isSome then 1 else 0)
      + 32 * (if o.hasColumn then 1 else 0) + 64 * (if o.slot.isSome then 1 else 0) =
    originCode o.origin + (if o.line = none then 0 else 8)
      + (match o.phys with
        | none => 0
        | some a => if a.column = none then 16 else 16 + 32)
      + if o.slot = none then 0 else 64 := by
  rw [Nat.add_assoc (_ + _) (16 * _), Offer.addressBits_eq, presenceBit_eq, presenceBit_eq, Origin.code_eq_originCode]

theorem Offer.lineBytes_eq : leBytes 4 (o.line.getD 0) =
    match o.line with
    | none => [0, 0, 0, 0]
    | some l => fourBytes l := by
  cases o.line with
  | none => rfl
  | some l => exact leBytes_four l

theorem Offer.rowBytes_eq : leBytes 2 ((o.phys.map fun a => a.row % 32768).getD 0) =
    match o.phys with
    | none => [0, 0]
    | some a => twoBytes (a.row % 32768) := by
  cases o.phys <;> rfl

theorem Offer.slotByte_eq : byteOf (o.slot.getD 0) =
    match o.slot with
    | none => 0
    | some n => BitVec.ofNat 8 n := by
  cases o.slot <;> rfl

end Record

/-- A record's bytes are the layout of R180. -/
theorem FaultRecord.bytes_eq_layout (r : FaultRecord) : r.bytes = r.layout := by
  unfold FaultRecord.bytes
  dsimp only
  rw [FaultKind.code_add_severity, Offer.injectedBit_eq, Offer.originByte_eq, Offer.lineBytes_eq, Offer.rowBytes_eq,
    Offer.slotByte_eq, leBytes_two, leBytes_four]
  rfl

/-- A record offered to a log that is not full joins it (R162). -/
theorem State.offerRecord_of_room (s : State) (o : Offer) (room : s.log.records.length < 32) : s.offerRecord o =
    { s with log :=
      { records := s.log.records ++ [{ seq := s.log.nextSeq, body := o }], nextSeq := s.log.nextSeq + 1 } } :=
  if_pos room

/-- A record offered to a full log is lost (R162). -/
theorem State.offerRecord_of_full (s : State) (o : Offer) (full : 32 ≤ s.log.records.length) : s.offerRecord o =
    { s with counters := (s.count .logLost).counters, flags := s.flags ||| 0x0002 } :=
  if_neg (Nat.not_lt.mpr full)

/-- Settles O50: each command by the log's head, the record part by part, an offer by the room that the log has. -/
theorem faultCommandsReadAndPopTheHead : Obligations.FaultCommandsReadAndPopTheHead := by
  refine ⟨fun s p => ⟨exec_readFault, fun h => ?_⟩, FaultRecord.bytes_eq_layout,
    fun s o => ⟨s.offerRecord_of_room o, s.offerRecord_of_full o⟩⟩
  obtain ⟨empty, popped⟩ := exec_popFault h
  exact ⟨empty, fun r rest head => ⟨_, popped r rest head, rfl, State.flag_logNonempty_iff _⟩⟩

end Sys2Proof.Machine
end

section
/-! THEOREMS. One step of the part, and an answer of every command in every state (LOG 1, LOG 3). -/

namespace Sys2Proof.Machine

/-- Settles O1, by the two forms of the queue. -/
theorem stepRunsTheFrontCommandOrTicks : Obligations.StepRunsTheFrontCommandOrTicks := by
  refine ⟨fun c rest s front => ?_, fun s empty => ?_⟩
  · rw [step, front]
  · rw [step, empty]

/-! ### The rows that answer by cases -/

/-- A row of two next states answers one. -/
theorem ite_next_answers {c : Prop} [Decidable c] (t u : State) :
    ∃ v, (if c then .next t else .next u : Host.Outcome State Fault Refusal) = .next v :=
  ⟨_, (apply_ite Host.Outcome.next c t u).symm⟩

section Answers

variable (s : State)

theorem execMediaTimeout_answers (slot : SlotNo) : ∃ t, execMediaTimeout slot s = .next t := by
  unfold execMediaTimeout
  cases (s.slot slot).work <;> exact ⟨_, rfl⟩

theorem execDrainExpiry_answers : ∃ t, execDrainExpiry s = .next t := by
  unfold execDrainExpiry
  cases s.media.drain <;> exact ⟨_, rfl⟩

theorem execDecayExpiry_answers : ∃ t, execDecayExpiry s = .next t := by
  unfold execDecayExpiry
  cases s.watch.nextExpiry <;> exact ⟨_, rfl⟩

theorem execIntervalExpiry_answers : ∃ t, execIntervalExpiry s = .next t := by
  unfold execIntervalExpiry
  cases s.patrol.timer with
  | none => exact ⟨_, rfl⟩
  | some deadline =>
    dsimp only [State.advanceTo, State.setPatrol]
    cases s.patrol.state <;> exact ⟨_, rfl⟩

theorem execSlotGrant_answers : ∃ t, execSlotGrant s = .next t := by
  unfold execSlotGrant
  dsimp only
  split
  · split <;> exact ⟨_, rfl⟩
  · exact ⟨_, rfl⟩

theorem execCopyReadIssue_answers : ∃ t, execCopyReadIssue s = .next t := by
  unfold execCopyReadIssue
  split
  · exact ⟨_, rfl⟩
  · exact ite_next_answers _ _

end Answers

/-- Settles O2: the rows that answer by cases have their lemmas, and every other row is one next state. -/
theorem everyCommandAnswersANextState : Obligations.EveryCommandAnswersANextState := by
  intro c s
  cases c
  case readCompletion slot epoch leg line =>
    obtain late | ⟨w, -, accepted⟩ := execReadCompletion_cases slot epoch leg line s
    · exact ⟨_, late⟩
    · exact ⟨_, accepted⟩
  case writeCompletion slot epoch leg =>
    obtain late | ⟨w, -, accepted⟩ := execWriteCompletion_cases slot epoch leg s
    · exact ⟨_, late⟩
    · exact ⟨_, accepted⟩
  case mediaTimeout slot => exact execMediaTimeout_answers s slot
  case drainExpiry => exact execDrainExpiry_answers s
  case decayExpiry => exact execDecayExpiry_answers s
  case intervalExpiry => exact execIntervalExpiry_answers s
  case slotGrant => exact execSlotGrant_answers s
  case copyReadIssue => exact execCopyReadIssue_answers s
  case pointerWrite | registerWrite | registerRead | addressByte => exact ite_next_answers _ _
  all_goals exact ⟨_, rfl⟩

end Sys2Proof.Machine
end

section
/-! THEOREMS. The I2C bus and the register window: address and pointer bytes, writes to COMMAND and to the other registers, reads
(R168, R169, R172 to R176; LOG 13, LOG 15). -/

namespace Sys2Proof.Machine

/-! ### Writes to COMMAND (R175, R176) -/

theorem namesCommand_iff (code : Byte) : namesCommand code = true ↔ 1 ≤ code.toNat ∧ code.toNat ≤ 0x1B := by
  simp [namesCommand]

section Command

variable {s : State} {code : Byte}

/-- While a command is BUSY, a COMMAND write sets CMD_OVERRUN and no more (R176). -/
theorem State.writeCommand_of_busy (busy : s.mgmt.running ≠ none) :
    s.writeCommand code = { s with flags := s.flags ||| 0x0400 } :=
  if_pos (Option.isSome_iff_ne_none.mpr busy)

/-- A code that names a command starts it: the code stored, PARAM latched, RESULT BUSY (R175). -/
theorem State.writeCommand_of_named (idle : s.mgmt.running = none) (low : 1 ≤ code.toNat) (high : code.toNat ≤ 0x1B) :
    s.writeCommand code = s.busy code s.mgmt.param := by
  have named : namesCommand code = true := (namesCommand_iff code).mpr ⟨low, high⟩
  rw [State.writeCommand, idle, if_neg (by decide), if_pos named]
  rfl

/-- A code that names no command completes with BAD_PARAM (R175; LOG 15). -/
theorem State.writeCommand_of_unnamed (idle : s.mgmt.running = none) (outside : code.toNat = 0 ∨ 0x1B < code.toNat) :
    s.writeCommand code = s.finished code .badParam := by
  have unnamed : ¬namesCommand code = true := by
    rw [namesCommand_iff]
    omega
  rw [State.writeCommand, idle, if_neg (by decide), if_neg unnamed]
  rfl

end Command

/-- Settles O7: both rows are the COMMAND write. -/
theorem unknownAndOverrunningCommandsAreTurnedAway : Obligations.UnknownAndOverrunningCommandsAreTurnedAway := fun _ _ =>
  ⟨fun idle outside => congrArg _ (State.writeCommand_of_unnamed idle outside),
    fun busy => congrArg _ (State.writeCommand_of_busy busy)⟩

/-! ### The address and the pointer (R172) -/

section Selection

variable {s : State}

/-- The port's address is 0x38 plus its straps (R172). -/
theorem eq_i2cAddress_iff (address : BitVec 7) : address = s.i2cAddress ↔ address.toNat = 0x38 + s.mgmt.ma.toNat := by
  have own : s.i2cAddress.toNat = 0x38 + s.mgmt.ma.toNat := by
    have strap : s.mgmt.ma.toNat < 4 := s.mgmt.ma.isLt
    have base : Config.i2cBase.toNat = 0x38 := rfl
    rw [State.i2cAddress, BitVec.toNat_add, BitVec.toNat_setWidth, base]
    omega
  rw [← BitVec.toNat_inj, own]

theorem exec_addressByte (address : BitVec 7) (read : Bool) : exec (.addressByte address read) s =
    if address.toNat = 0x38 + s.mgmt.ma.toNat then
      .next { s with mgmt := { s.mgmt with bus := if read then .reading else .pointerNext, ack := true } }
    else .next { s with mgmt := { s.mgmt with bus := .idle, ack := false } } := by
  simp only [← eq_i2cAddress_iff]
  rfl

/-- The pointer is the written byte modulo 64 (R172). -/
theorem exec_pointerWrite (next : s.mgmt.bus = .pointerNext) (value : Byte) : exec (.pointerWrite value) s =
    .next { s with mgmt := { s.mgmt with pointer := BitVec.ofNat 6 value.toNat, bus := .writing, ack := true } } := by
  rw [BitVec.ofNat_toNat]
  exact if_pos next

end Selection

/-! ### Register writes (R172, R173) -/

section Writes

variable {s : State}

theorem State.writeRegister_param (k : Fin 12) (value : Byte) :
    s.writeRegister (0x09 + k.val) value = s.setMgmt { s.mgmt with param := s.mgmt.param.set k.val value } := by
  have place : 0x09 ≤ 0x09 + k.val ∧ 0x09 + k.val ≤ 0x14 := by omega
  rw [State.writeRegister, if_neg (by omega), if_neg (by omega), if_pos place, Nat.add_sub_cancel_left]
  have inside : s.mgmt.param.setIfInBounds k.val value = s.mgmt.param.set k.val value :=
    Vector.toArray_inj.mp (dif_pos (k.isLt.trans_eq s.mgmt.param.size_toArray.symm))
  rw [inside]

theorem State.writeRegister_readOnly {a : Nat} (readOnly : a < 0x05 ∨ a = 0x07 ∨ a = 0x08 ∨ 0x16 ≤ a) (value : Byte) :
    s.writeRegister a value = s := by
  rw [State.writeRegister, if_neg (by omega), if_neg (by omega), if_neg (by omega), if_neg (by omega)]

/-- A written byte goes to the register at the pointer, which advances (R172). -/
theorem exec_registerWrite (writing : s.mgmt.bus = .writing) (value : Byte) :
    exec (.registerWrite value) s = .next (s.writeRegister s.mgmt.pointer.toNat value).ackWrite :=
  if_pos writing

theorem exec_registerWrite_at (writing : s.mgmt.bus = .writing) {a : BitVec 6} (pointer : s.mgmt.pointer = a) (value : Byte) :
    exec (.registerWrite value) s = .next (s.writeRegister a.toNat value).ackWrite := by
  rw [exec_registerWrite writing, pointer]

theorem exec_registerWrite_command (writing : s.mgmt.bus = .writing) (pointer : s.mgmt.pointer = 0x15) (value : Byte) :
    exec (.registerWrite value) s = .next (s.writeCommand value).ackWrite :=
  exec_registerWrite_at writing pointer value

theorem State.clearFlags_ackWrite (s : State) (which : FlagByte) (value : Byte) : (s.clearFlags which value).ackWrite =
    { s with
      flags := (s.clearFlags which value).flags, mgmt := { s.mgmt with pointer := s.mgmt.pointer + 1, ack := true } } := by
  rw [s.clearFlags_eq which value]
  rfl

/-- Each flag of FLAGS0 is cleared by its bit, LOG_NONEMPTY apart (R168, R174). -/
theorem State.clearFlags_flags0_flag (s : State) (value : Byte) {f : Flag} (other : f ≠ .logNonempty) :
    (s.clearFlags .flags0 value).flag f = true ↔ s.flag f = true ∧ ¬(f.bit < 8 ∧ value.getLsbD f.bit = true) := by
  rw [State.flag_eq _ other, State.flag_eq _ other]
  exact s.clearFlags_flags0_bit value f.bit

/-- Each flag of FLAGS1 is cleared by its bit (R168, R174). -/
theorem State.clearFlags_flags1_flag (s : State) (value : Byte) {f : Flag} (other : f ≠ .logNonempty) :
    (s.clearFlags .flags1 value).flag f = true ↔ s.flag f = true ∧ ¬(8 ≤ f.bit ∧ value.getLsbD (f.bit - 8) = true) := by
  rw [State.flag_eq _ other, State.flag_eq _ other]
  exact s.clearFlags_flags1_bit value f.bit

end Writes

/-- Settles O4: the register written by its place in the window, COMMAND by the code and the mailbox. -/
theorem busBytesSelectAndWriteRegisters : Obligations.BusBytesSelectAndWriteRegisters := by
  refine ⟨fun s address read value => ⟨fun own => ?_, fun foreign => ?_, fun next => exec_pointerWrite next value⟩,
    fun s value writing => ⟨fun k place => ?_, fun readOnly => ?_⟩,
    fun s value writing pointer => ⟨fun idle low high => ?_, fun idle outside => ?_, fun busy => ?_⟩,
    fun s value writing pointer => ?_⟩
  · rw [exec_addressByte, if_pos own]
  · rw [exec_addressByte, if_neg foreign]
  · rw [exec_registerWrite writing, place, State.writeRegister_param]
    rfl
  · rw [exec_registerWrite writing, State.writeRegister_readOnly readOnly]
    rfl
  · rw [exec_registerWrite_command writing pointer, State.writeCommand_of_named idle low high, State.ackWrite, busy_mgmt, pointer]
    rfl
  · rw [exec_registerWrite_command writing pointer, State.writeCommand_of_unnamed idle outside, State.ackWrite, finished_mgmt,
      pointer, ← idle]
    rfl
  · rw [exec_registerWrite_command writing pointer, State.writeCommand_of_busy busy, State.ackWrite, pointer]
    rfl
  · obtain flags0 | flags1 := pointer
    · refine ⟨(s.clearFlags .flags0 value).ackWrite, exec_registerWrite_at writing flags0 value,
        s.clearFlags_ackWrite .flags0 value, State.flag_logNonempty_iff _, fun f other => ?_⟩
      rw [if_pos flags0]
      exact s.clearFlags_flags0_flag value other
    · have second : s.mgmt.pointer ≠ 0x05 := by
        rw [flags1]
        decide
      refine ⟨(s.clearFlags .flags1 value).ackWrite, exec_registerWrite_at writing flags1 value,
        s.clearFlags_ackWrite .flags1 value, State.flag_logNonempty_iff _, fun f other => ?_⟩
      rw [if_neg second]
      exact s.clearFlags_flags1_flag value other

/-! ### Register reads (R173, R174) -/

/-- A bit of the low byte of a register of 16 bits. -/
theorem lowByte_bit (v : BitVec 16) {i : Nat} (h : i < 8) : (v.setWidth 8).getLsbD i = v.getLsbD i := by
  rw [BitVec.getLsbD_setWidth, decide_eq_true h, Bool.true_and]

/-- A bit of the high byte of a register of 16 bits. -/
theorem highByte_bit (v : BitVec 16) {i : Nat} (h : i < 8) : ((v >>> 8).setWidth 8).getLsbD i = v.getLsbD (8 + i) := by
  rw [lowByte_bit _ h, BitVec.getLsbD_ushiftRight]

section Reads

variable (s : State)

/-- Bits 1 to 10 of the flags read as they are stored (R174). -/
theorem State.flagBits_stored {i : Nat} (named : 1 ≤ i ∧ i < 11) : s.flagBits.getLsbD i = s.flags.getLsbD i := by
  obtain ⟨f, rfl⟩ := Flag.exists_bit_eq named.2
  refine s.flag_eq ?_
  rintro rfl
  exact absurd named.1 (by decide)

/-- Bits 11 to 15 of the flags read as 0 (R174). -/
theorem State.flagBits_unnamed {i : Nat} (above : 11 ≤ i) : s.flagBits.getLsbD i = false :=
  Bool.eq_false_iff.mpr fun set => absurd (State.flagBits_lt set) (Nat.not_lt.mpr above)

theorem State.readRegister_param (k : Fin 12) : s.readRegister (0x09 + k.val) = s.mgmt.param[k] := by
  have read : s.readRegister (0x09 + k.val) = s.mgmt.param.toList.getD k.val 0 := by fin_cases k <;> rfl
  simp [read]

theorem State.readRegister_dataX (k : Fin 9) : s.readRegister (0x17 + k.val) = s.mgmt.dataX[k] := by
  have read : s.readRegister (0x17 + k.val) = s.mgmt.dataX.toList.getD k.val 0 := by fin_cases k <;> rfl
  simp [read]

theorem State.readRegister_data (k : Fin 32) : s.readRegister (0x20 + k.val) = s.mgmt.data[k] := by
  have read : s.readRegister (0x20 + k.val) = s.mgmt.data.toList.getD k.val 0 := by fin_cases k <;> rfl
  simp [read]

theorem ResultCode.code_eq_resultCode (r : ResultCode) : r.code = resultCode r := by
  cases r <;> rfl

variable {s}

theorem State.resultByte_of_busy (busy : s.mgmt.running ≠ none) : s.resultByte = 0xFF :=
  if_pos (Option.isSome_iff_ne_none.mpr busy)

theorem State.resultByte_of_idle (idle : s.mgmt.running = none) : s.resultByte = resultCode s.mgmt.result := by
  rw [State.resultByte, idle, if_neg (by decide), ResultCode.code_eq_resultCode]

/-- A read returns the register at the pointer, which advances (R172). -/
theorem exec_registerRead (reading : s.mgmt.bus = .reading) : exec .registerRead s =
    .next { s with mgmt := { s.mgmt with
      out := s.mgmt.out ++ [s.readRegister s.mgmt.pointer.toNat], pointer := s.mgmt.pointer + 1 } } :=
  if_pos reading

end Reads

/-- Settles O5: the register at the pointer, by its place in the window; the flag and mask bytes bit by bit. -/
theorem registerReadReturnsTheRegister : Obligations.RegisterReadReturnsTheRegister := by
  intro s reading
  have at_pointer : ∀ {a : BitVec 6}, s.mgmt.pointer = a → s.readRegister s.mgmt.pointer.toNat = s.readRegister a.toNat :=
    fun h => by rw [h]
  have flags0 : s.mgmt.pointer = 0x05 → ∀ {i : Nat}, i < 8 →
      (s.readRegister s.mgmt.pointer.toNat).getLsbD i = s.flagBits.getLsbD i := fun h _ low => by
    rw [at_pointer h]
    exact lowByte_bit _ low
  have flags1 : s.mgmt.pointer = 0x06 → ∀ {i : Nat}, i < 8 →
      (s.readRegister s.mgmt.pointer.toNat).getLsbD i = s.flagBits.getLsbD (8 + i) := fun h _ low => by
    rw [at_pointer h]
    exact highByte_bit _ low
  refine ⟨_, exec_registerRead reading, fun k h => ?_, fun k h => ?_, fun k h => ?_, at_pointer, at_pointer, at_pointer,
    fun h => ?_, at_pointer, fun h i => flags0 h i.isLt, fun h => ⟨?_, fun i => ?_⟩, fun h => ⟨fun i => ?_, fun i => ?_⟩,
    fun h i => ?_, fun h i => ?_, at_pointer, fun h busy => ?_, fun h idle => ?_⟩
  · rw [h, State.readRegister_param]
  · rw [h, State.readRegister_data]
  · rw [h, State.readRegister_dataX]
  · exact (at_pointer h).trans (status0_eq_statusLayout s)
  · rw [flags0 h (by decide)]
    exact s.flag_logNonempty_iff
  · rw [flags0 h (by omega), s.flagBits_stored (by omega)]
  · rw [flags1 h (by omega), s.flagBits_stored (by omega)]
  · rw [flags1 h (by omega), s.flagBits_unnamed (by omega)]
  · rw [at_pointer h]
    exact lowByte_bit _ i.isLt
  · rw [at_pointer h]
    exact highByte_bit _ i.isLt
  · exact (at_pointer h).trans (State.resultByte_of_busy busy)
  · exact (at_pointer h).trans (State.resultByte_of_idle idle)

end Sys2Proof.Machine
end

section
/-! THEOREMS. Messages of no request's type, CREDIT and LINK_UP (R143, R158, R181; LOG 8). -/

namespace Sys2Proof.Machine

/-- With the link up and credits pending, CREDIT carries the whole of P, which moves to G (R143; LOG 8). -/
theorem exec_credit {s : State} (up : s.ctl.linkUp = true) (pending : 1 ≤ s.ctl.p) : exec .credit s = .next
    { s with ctl := { s.ctl with g := s.ctl.g + s.ctl.p, p := 0, out := s.ctl.out ++ [.credit s.ctl.p] } } := by
  have sends : s.ctl.linkUp = true ∧ s.ctl.p ≠ 0 := ⟨up, Nat.one_le_iff_ne_zero.mp pending⟩
  have sent : exec .credit s = .next s.sendCredit := rfl
  rw [sent, State.sendCredit_eq]
  simp only [if_pos sends]

/-- Settles O38: an unknown type and LINK_UP are their rows' one equation each, CREDIT sends what is pending. -/
theorem unknownTypesCreditsAndLinkUp : Obligations.UnknownTypesCreditsAndLinkUp :=
  fun _ _ => ⟨rfl, exec_credit, rfl⟩

end Sys2Proof.Machine
end
